-- ==== Sys2Proof/Word.lean ====
section
/-! DEFINITION. The two bit-vector types the block's registers and the line use (spec/00_scope.md R9, R10). -/

namespace Sys2Proof

/-- One byte: a byte of a frame, of the staging buffer or of the line (R10). -/
abbrev Byte := BitVec 8

/-- One host register, one command word, one value on the host's bus (R76, R100). -/
abbrev Word := BitVec 32

/-- A field of a 32-bit register: the bits of `v` from bit `lo` on, every other bit 0 (R9). -/
def place {n : Nat} (v : BitVec n) (lo : Nat) : Word := v.zeroExtend 32 <<< lo

end Sys2Proof
end

