-- ==== Sys2Proof/Config.lean ====
section
/-! DEFINITION. The implementation parameters of spec/00_scope.md R6 to R8: what is fixed when the block is built. -/

namespace Sys2Proof

/-- A time in microseconds. What the timer port answers, and so each timestamp the session holds, is below
2 ^ `P_TIMER_BITS` (R36, R174); its width is a parameter, so it is no part of the type. -/
abbrev Time := Nat

/-- The line time of one byte in microseconds at a baud rate: ten bit times on an 8N1 line (R8, R281), 160 at 62500 baud.
DESIGN CHOICE (log entry 24): at a baud that does not divide ten million, the time is rounded down to whole microseconds;
at a baud of 0, which no line has, it is 0. -/
def byteTimeUs (baud : Nat) : Nat := 10 * 1000000 / baud

/-- The parameters of R6, each with the value this hardware takes as its default.
Every operation that reads one takes a `Params`, so a literal of the unaudited source can be varied (R3): the commands as
`execOn`, the machine as `stepOn`. `exec` and `step` are these at `Params.hw`. -/
structure Params where
  /-- `P_START`, byte 0 of every frame. -/
  pStart : Byte := 0xF0
  /-- `P_END`, the last byte of every frame. -/
  pEnd : Byte := 0xF7
  /-- `P_RX_LEN`, the length of an inbound frame. -/
  pRxLen : Nat := 6
  /-- `P_STATUS_LEN`, the length of the outbound full-status frame. -/
  pStatusLen : Nat := 9
  /-- `P_FSCHG_LEN`, the length of the outbound footswitch-change frame. -/
  pFschgLen : Nat := 7
  /-- `P_TXQ_CAP`, the capacity of the send queue in entries. -/
  pTxqCap : Nat := 5
  /-- `P_RXQ_CAP`, the capacity of the receive queue in entries. -/
  pRxqCap : Nat := 2
  /-- `P_ENTRY_MAX`, the most bytes of a queue entry and the size of FBUF.
  R6 requires 16, the size that the state's staging buffer has by its type. -/
  pEntryMax : Nat := 16
  /-- `P_ECHO_TIMEOUT_US`. -/
  pEchoTimeoutUs : Nat := 20000
  /-- `P_REPLY_TIMEOUT_US`. -/
  pReplyTimeoutUs : Nat := 100000
  /-- `P_BAUD`: no rule of the block reads it; it fixes only the default of the re-poll delay (R8, R173). -/
  pBaud : Nat := 62500
  /-- `P_TIMER_BITS`, the width of the timer port `Now()` in bits (R174, I16). -/
  pTimerBits : Nat := 64
  /-- `P_REPOLL`: whether TICK does the one delayed re-poll. -/
  pRepoll : Bool := false
  /-- `P_REPOLL_DELAY_US`, 320 at the default baud: twice the time of one byte on the line (R6, R8).
  DESIGN CHOICE (log entry 24): the spec states 320 alone and "approximately twice"; a configuration built with another
  `P_BAUD` and no delay of its own gets exactly twice that baud's `byteTimeUs`. -/
  pRepollDelayUs : Nat := 2 * byteTimeUs pBaud
deriving DecidableEq, Repr

/-- The parameters of the hardware this model is of: every one at the default of R6. -/
def Params.hw : Params := {}

/-- 2 ^ `P_TIMER_BITS`, the number of values of the timer port (R174). -/
def Params.timerModulus (c : Params) : Nat := 2 ^ c.pTimerBits

/-- The constraints that R6 puts on a configuration. -/
def Params.valid (c : Params) : Bool :=
  decide (3 ≤ c.pRxLen) && decide (c.pRxLen ≤ c.pEntryMax) && decide (c.pStatusLen ≤ c.pEntryMax)
    && decide (c.pFschgLen ≤ c.pEntryMax) && decide (c.pEntryMax = 16)
    && decide (1 ≤ c.pTxqCap) && decide (c.pTxqCap ≤ 7) && decide (1 ≤ c.pRxqCap) && decide (c.pRxqCap ≤ 3)

/-- The open platform parameter behind `P_BASE`, which must be a multiple of 0x40 (R6, R71): which
64-byte window of the bus the block answers. It has no value in this model. -/
opaque Config.windowNumber : Nat

/-- `P_BASE`, the bus address of the register window (R71). -/
def Config.pBase : Nat := 64 * Config.windowNumber

end Sys2Proof
end

