-- ==== Sys2Proof/Machine/State.lean ====
section
/-! DEFINITION. The machine's state: the block's own (spec/10_state.md R30), and beside it the two environment agents
(the line and the timer) and the host's pending accesses, as plain data (spec/00_scope.md R14). -/

namespace Sys2Proof.Machine

/-- The session state `S`: exactly one of five variants (R32). -/
inductive Session where
  /-- `Idle`, which carries nothing. -/
  | idle
  /-- `Sending`: the frame being sent and the index of the next byte to write. -/
  | sending (buf : List Byte) (cursor : Nat)
  /-- `WaitingEcho`: as `Sending`, and the time at which `buf[cursor]` was written. -/
  | waitingEcho (buf : List Byte) (cursor : Nat) (t0 : Time)
  /-- `WaitingReply`: the time at which the last echo was accepted. -/
  | waitingReply (t0 : Time)
  /-- `Receiving`: the accumulator. -/
  | receiving (acc : List Byte)
deriving DecidableEq, Repr

/-- One received item that waits on the line: a byte, or a receive error (R170). -/
inductive RxItem where
  | byte (v : Byte)
  | ioErr
deriving DecidableEq, Repr

/-- What the line does with a byte the block hands to it (R170, R172). -/
inductive WriteAnswer where
  /-- It accepts the byte. -/
  | ok
  /-- It fails the byte. -/
  | ioErr
  /-- It never answers: the block is held for ever (R172). -/
  | never
  /-- It does not answer until the platform resets the block, which abandons the TICK (R260). -/
  | heldToReset
deriving DecidableEq, Repr

/-- What the line, the timer and the platform do around ONE session step: the draws of R171 and R174.
A list of these is one behaviour of the environment; a statement about every state is about every behaviour. -/
structure Moment where
  /-- The items that become readable before the step, oldest first (R171). -/
  arrive : List RxItem := []
  /-- What `LineBusy()` answers in the step. -/
  busy : Bool := false
  /-- What `LineWrite` answers in the step. -/
  write : WriteAnswer := .ok
  /-- The microseconds that pass up to the step's `Now()` (R174). -/
  elapse : Nat := 0
  /-- The platform resets the block before the step, which abandons the TICK (R260). -/
  reset : Bool := false
deriving DecidableEq, Repr

/-- What the environment does in every session step after the script's last moment. -/
inductive LineEnd where
  /-- Nothing more arrives, writes are accepted, the line is not busy, no time passes. -/
  | quiet
  /-- The line keeps supplying items for ever, so that a TICK never ends (R191). -/
  | floods
deriving DecidableEq, Repr

/-- The line agent, as the block meets it at the line port (R170, R171). -/
structure Line where
  /-- The received items that wait to be read, oldest first. -/
  rx : List RxItem := []
  /-- What the environment will do, one moment for each session step to come. -/
  script : List Moment := []
  /-- What it does after that. -/
  ending : LineEnd := .quiet
  /-- Every byte the block handed to `LineWrite`, oldest first: a part of the observation of a run (R282). -/
  handed : List Byte := []
deriving DecidableEq, Repr

/-- What reaches the block from outside between commands: a host access to the bus, at a displacement from `P_BASE`
and with a size in bytes (R76), or the platform's reset (R260). -/
inductive Input where
  | write (off : Int) (size : Nat) (v : Word)
  | read (off : Int) (size : Nat)
  | platformReset
deriving DecidableEq, Repr

/-- The machine's state. The first eight fields are the block's, and nothing else is (R30, R55);
the rest are its environment and the observation of a run (R282). -/
structure State where
  /-- `S`, the session state (R32). -/
  session : Session
  /-- `TXQ`, the send queue, its head first (R37). -/
  txq : List (List Byte)
  /-- `RXQ`, the receive queue, its head first (R38). -/
  rxq : List (List Byte)
  /-- `FBUF[0..15]`, the staging buffer (R40). -/
  fbuf : Vector Byte 16
  /-- `FLEN`, the staging length, 0 to 16 (R41). -/
  flen : Fin 17
  /-- `RESULT` (R44). -/
  result : Word
  /-- `ERR`, the sticky error bits (R46). -/
  err : Word
  /-- `LAST_ERR`, bits [3:0] (R48). -/
  lastErr : BitVec 4
  /-- The line agent. -/
  line : Line
  /-- The timer agent: the microseconds it has counted. The port answers this count modulo 2 ^ `P_TIMER_BITS`
  (`State.readNow`, R174). -/
  now : Nat
  /-- The accesses the host issues next, in the order the block performs them (R80). -/
  inputs : List Input
  /-- Every register value the host program read, oldest first (R282). -/
  reads : List Word
deriving DecidableEq, Repr

/-- Why the machine stops. Each is safe: the model goes on in none of these, so no false claim rests on one. -/
inductive Fault where
  /-- A host access that is not an aligned 32-bit access inside the window (R76, I1). Raised by `performInput`. Safe. -/
  | badHostAccess
  /-- A write the line never accepts holds the TICK for ever (R172, I13). Raised by TICK. Safe. -/
  | writeNeverAccepted
  /-- A line that never stops supplying bytes holds the TICK for ever (R191, I14). Raised by TICK. Safe. -/
  | tickNeverEnds
  /-- A session whose cursor lies outside its buffer, which no run reaches (R33). Raised by TICK. Safe. -/
  | cursorOutOfRange
deriving DecidableEq, Repr

/-- Why an instruction has no meaning. -/
inductive Refusal where
  /-- The instruction has no meaning yet. Raised by `exec`'s own arms only. Safe. -/
  | notModelled (mnemonic : String)
deriving DecidableEq, Repr

/-- The machine right after reset: the block's state is R60's. Reset does not set the line or the timer (R261): here the
line is silent, nothing waits on it and the timer reads 0, which are the model's choice, as is that no access is pending. -/
def State.reset : State where
  session := .idle
  txq := []
  rxq := []
  fbuf := Vector.replicate 16 0
  flen := 0
  result := 0
  err := 0
  lastErr := 0
  line := {}
  now := 0
  inputs := []
  reads := []

end Sys2Proof.Machine
end

