-- ==== Sys2Proof/Machine/Flags.lean ====
section
/-! DEFINITION. The block's flag-like registers: the error codes and the bits of ERR, the fields of RESULT, and STATUS,
which is computed at every read (spec/10_state.md R44 to R52, spec/60_exceptions.md R231). -/

namespace Sys2Proof.Machine

/-- The errors that set a bit of ERR: codes 1 to 12 of R231. Code 13, TooShort, is never raised (R234, R236). -/
inductive Err where
  | invalidStart | invalidEnd | tooLong | checksumErr
  | echoMismatch | echoTimeout | replyTimeout | ioError
  | txQueueFull | rxQueueFull | badCommand | badLength
deriving DecidableEq, Repr

/-- The code of an error (R231). -/
def Err.code : Err → BitVec 4
  | .invalidStart => 1
  | .invalidEnd => 2
  | .tooLong => 3
  | .checksumErr => 4
  | .echoMismatch => 5
  | .echoTimeout => 6
  | .replyTimeout => 7
  | .ioError => 8
  | .txQueueFull => 9
  | .rxQueueFull => 10
  | .badCommand => 11
  | .badLength => 12

/-- The code of CKSUM's TooShort, which appears in `RESULT.REASON` only (R231, R236). -/
def tooShortCode : BitVec 4 := 13

/-- The ERR bit of an error: bit n for code n (R46). -/
def Err.bit (e : Err) : Word := 1#32 <<< e.code.toNat

/-- The bits of ERR that a write of 1 clears: bits 1 to 12 (R47). -/
def errClearMask : Word := 0x00001FFE

/-- ERR after a host write of `v`: write-1-to-clear (R47). -/
def errAfterWrite (err v : Word) : Word := err &&& ~~~(v &&& errClearMask)

/-- RESULT from its fields, its reserved bits 0 (R44): VALUE [7:0], VERDICT [9:8], REASON [15:12], VALID [16]. -/
def resultWord (value : Byte) (verdict : BitVec 2) (reason : BitVec 4) (valid : Bool) : Word :=
  place value 0 ||| place verdict 8 ||| place reason 12 ||| place (BitVec.ofBool valid) 16

/-- `RESULT.VALUE` (R44). -/
def resultValue (r : Word) : Byte := r.extractLsb' 0 8
/-- `RESULT.VERDICT` (R44). -/
def resultVerdict (r : Word) : BitVec 2 := r.extractLsb' 8 2
/-- `RESULT.REASON` (R44). -/
def resultReason (r : Word) : BitVec 4 := r.extractLsb' 12 4
/-- `RESULT.VALID` (R44). -/
def resultValid (r : Word) : Bool := r.getLsbD 16

/-- RESULT of a command that returns the byte `v` (R45). -/
def resultSome (v : Byte) : Word := resultWord v 0 0 true
/-- RESULT of a command that returns "none" (R45). -/
def resultNone : Word := resultWord 0 0 0 false
/-- RESULT of a command that failed with the code `reason` (R45, R237). -/
def resultFailed (reason : BitVec 4) : Word := resultWord 0 0 reason false

/-- The STATE code of a session (R32, R51). -/
def Session.code : Session → BitVec 3
  | .idle => 0
  | .sending _ _ => 1
  | .waitingEcho _ _ _ => 2
  | .waitingReply _ => 3
  | .receiving _ => 4

/-- `STATUS.CURSOR` (R52). -/
def Session.cursorField : Session → BitVec 4
  | .sending _ c => BitVec.ofNat 4 c
  | .waitingEcho _ c _ => BitVec.ofNat 4 c
  | .idle => 0
  | .waitingReply _ => 0
  | .receiving _ => 0

/-- `STATUS.ACC_LEN` (R52). -/
def Session.accLenField : Session → BitVec 5
  | .receiving acc => BitVec.ofNat 5 acc.length
  | .idle => 0
  | .sending _ _ => 0
  | .waitingEcho _ _ _ => 0
  | .waitingReply _ => 0

/-- STATUS, computed from the state at the time of the read (R52): STATE [2:0], CURSOR [7:4], ACC_LEN [12:8],
TXQ_COUNT [18:16], RXQ_COUNT [21:20], every other bit 0. -/
def State.status (s : State) : Word :=
  place s.session.code 0 ||| place s.session.cursorField 4 ||| place s.session.accLenField 8
    ||| place (BitVec.ofNat 3 s.txq.length) 16 ||| place (BitVec.ofNat 2 s.rxq.length) 20

end Sys2Proof.Machine
end

