-- ==== Sys2Proof/Machine/Operands.lean ====
section
/-! DEFINITION. The staging buffer as commands and host accesses see it: the operand bytes `FBUF[0..FLEN)`, the result
bytes a command stores, and the four little-endian words of the window (spec/10_state.md R40 to R42, spec/20_memory.md R74). -/

namespace Sys2Proof.Machine

/-- `FBUF[0..FLEN)`, the operand of ENQ, CKSUM, LEDST and AFEED (R41). -/
def State.operand (s : State) : List Byte := s.fbuf.toList.take s.flen.val

/-- A staging length as the register holds it (R41). -/
def flenOf (n : Nat) : Fin 17 := Fin.ofNat 17 n

/-- `FBUF[0..len(f)) <- f`; the bytes from `len(f)` on keep their values (R134, R136, R216). -/
def overlay (f : List Byte) (fbuf : Vector Byte 16) : Vector Byte 16 :=
  Vector.ofFn fun i => f.getD i.val fbuf[i]

/-- `FBUF[FLEN] <- b ; FLEN <- FLEN + 1` (R155). -/
def State.stageAppend (b : Byte) (s : State) : State :=
  { s with fbuf := s.fbuf.setIfInBounds s.flen.val b, flen := flenOf (s.flen.val + 1) }

/-- The index of the byte of `FBUF` in lane j of word k (R74, R75). -/
def laneIndex (k j : Fin 4) : Fin 16 := ⟨4 * k.val + j.val, by omega⟩

/-- Word k of `FBUF`, little-endian (R74). -/
def fbufWord (fbuf : Vector Byte 16) (k : Fin 4) : Word :=
  place fbuf[laneIndex k 0] 0 ||| place fbuf[laneIndex k 1] 8 ||| place fbuf[laneIndex k 2] 16 ||| place fbuf[laneIndex k 3] 24

/-- Byte lane j of a 32-bit value (R74). -/
def laneByte (v : Word) (j : Fin 4) : Byte := v.extractLsb' (8 * j.val) 8

/-- `FBUF` after a host write of `v` to word k (R74). -/
def fbufSetWord (fbuf : Vector Byte 16) (k : Fin 4) (v : Word) : Vector Byte 16 :=
  (((fbuf.set (laneIndex k 0) (laneByte v 0)).set (laneIndex k 1) (laneByte v 1)).set
    (laneIndex k 2) (laneByte v 2)).set (laneIndex k 3) (laneByte v 3)

end Sys2Proof.Machine
end

