-- ==== Sys2Proof/Machine/Ops.lean ====
section
/-! DEFINITION. The shared operations: recording an error (the only "exception" of the block), the bounded queues, the
line and timer ports, and the platform's reset. -/

namespace Sys2Proof.Machine

/-! ### Errors

The block has no traps, no vector and no handler (R230). Taking an "exception" is recording the error and going on as
the rule that raised it says; there is no return from one (R240). -/

/-- `raise Err(e)`: set the ERR bit, and LAST_ERR becomes the code; nothing else changes (R234). -/
def raiseErr (e : Err) (s : State) : State :=
  { s with err := s.err ||| e.bit, lastErr := e.code }

/-- A command fault: the error is raised and RESULT says so; nothing else changes (R237). -/
def commandFault (e : Err) (s : State) : State :=
  { s with err := s.err ||| e.bit, lastErr := e.code, result := resultFailed e.code }

/-- A session error: the error is raised, the session is Idle, and the frame in progress is gone with the old session (R235). -/
def sessionError (e : Err) (s : State) : State :=
  { s with err := s.err ||| e.bit, lastErr := e.code, session := .idle }

/-! ### Queues -/

/-- `Q.push(e)` on a queue of capacity `cap`, where there is room (R210); a full queue takes nothing (R212). -/
def pushBounded (cap : Nat) (e : List Byte) (q : List (List Byte)) : Option (List (List Byte)) :=
  if q.length < cap then some (q ++ [e]) else none

/-! ### The line port and the timer port -/

/-- The moment of the next session step: the script's first, or after its end the quiet one. -/
def Line.nextMoment (l : Line) : Moment := l.script.headD {}

/-- The line never stops supplying items and its script has ended (R191). -/
def Line.flooding (l : Line) : Bool := l.script.isEmpty && l.ending == .floods

/-- The environment acts before a session step: the moment's items become readable behind those that wait (R171), and
its time passes, so that the step's `Now()` answers the time after it (R174). -/
def State.beginStep (s : State) : State :=
  { s with
    line := { s.line with rx := s.line.rx ++ s.line.nextMoment.arrive, script := s.line.script.tail }
    now := s.now + s.line.nextMoment.elapse }

/-- `LineReadable()` (R170). -/
def State.lineReadable (s : State) : Bool := !s.line.rx.isEmpty

/-- The oldest waiting item is taken from the line (R171). -/
def State.takeRx (rest : List RxItem) (s : State) : State := { s with line := { s.line with rx := rest } }

/-- The byte `v` is handed to the line (R170). -/
def State.handToLine (v : Byte) (s : State) : State := { s with line := { s.line with handed := s.line.handed ++ [v] } }

/-- `Now()`: the timer's count, as far as the port is wide (R174). -/
def State.readNow (c : Params) (s : State) : Time := s.now % c.timerModulus

/-- `Elapsed(t0)`: the difference, the non-negative remainder modulo 2 ^ `P_TIMER_BITS` (R9, R175, R279). -/
def elapsed (c : Params) (now t0 : Time) : Int := ((now : Int) - (t0 : Int)) % (c.timerModulus : Int)

/-- `TimedOut(t0, limit)`: the elapsed time is strictly greater than the limit (R175). -/
def timedOut (c : Params) (now t0 : Time) (limit : Nat) : Bool := decide ((limit : Int) < elapsed c now t0)

/-- The re-poll's wait: that many microseconds pass (R190). -/
def State.wait (us : Nat) (s : State) : State := { s with now := s.now + us }

/-! ### Reset -/

/-- The platform's reset of the block: every piece of block state takes its value of R60 (R260). The line and the timer
are not reset (R261), nor what the host does next, nor the observation of the run. -/
def State.platformReset (s : State) : State :=
  { State.reset with line := s.line, now := s.now, inputs := s.inputs, reads := s.reads }

end Sys2Proof.Machine
end

