-- ==== Sys2Proof/Machine/Queues.lean ====
section
/-! DEFINITION. The queue commands ENQ and POP (spec/43_queues.md). -/

namespace Sys2Proof.Machine

/-- ENQ on a configuration: BadLength for an empty operand before TxQueueFull (R213, R238); a full queue drops the new entry (R212). -/
def runEnq (c : Params) (s : State) : Host.Outcome State Fault Refusal :=
  if s.flen.val = 0 then .next (commandFault .badLength s)
  else
    match pushBounded c.pTxqCap s.operand s.txq with
    | none => .next (commandFault .txQueueFull s)
    | some q => .next { s with txq := q, result := resultSome (BitVec.ofNat 8 q.length) }

/-- ENQ at the default configuration (R213). -/
def execEnq (s : State) : Host.Outcome State Fault Refusal := runEnq Params.hw s

/-- POP, which reads no parameter: an empty queue gives "none", which is no error (R216). -/
def execPop (s : State) : Host.Outcome State Fault Refusal :=
  match s.rxq with
  | [] => .next { s with result := resultNone }
  | f :: rest =>
    .next { s with
      rxq := rest, fbuf := overlay f s.fbuf, flen := flenOf f.length, result := resultSome (BitVec.ofNat 8 f.length) }

end Sys2Proof.Machine
end

