-- ==== Sys2Proof/Machine/Codec.lean ====
section
/-! DEFINITION. The frame codec: the checksum, the two frame builders, the status extractor, and the commands CKSUM,
BSTAT, BFSCHG and LEDST (spec/40_codec.md). -/

namespace Sys2Proof.Machine

/-- The tagged result of `Checksum` (R12, R130). -/
inductive ChecksumResult where
  | ok (v : Byte)
  | tooShort
deriving DecidableEq, Repr

/-- The sum of the bytes at indices 1 to n−3 of a byte sequence of length n; an empty sum is 0 (R130). -/
def payloadSum (f : List Byte) : Nat := (((f.drop 1).take (f.length - 3)).map BitVec.toNat).sum

/-- `Checksum(f)`: the 7-bit two's complement of the payload's sum, or TooShort below three bytes (R130). -/
def checksum (f : List Byte) : ChecksumResult :=
  if f.length < 3 then .tooShort
  else .ok (BitVec.ofNat 8 ((0x80 - payloadSum f % 0x80) % 0x80))

/-- A payload at the length a frame of that kind has: cut, or filled with zeros. At the default lengths of R6 the
payloads of R106 and R107 have exactly that length, and this changes nothing. -/
def fitPayload (n : Nat) (p : List Byte) : List Byte := (p ++ List.replicate n 0).take n

/-- A frame of `len` bytes from its payload: the markers around it, and the checksum at its length−2 (R105, R133, R135).
DESIGN CHOICE (log entry 15): R105 gives no frame below three bytes and R6 no lower bound on `P_STATUS_LEN` and
`P_FSCHG_LEN`; at a length below 3 this gives the three bytes of a frame without a payload. -/
def sealFrame (c : Params) (len : Nat) (payload : List Byte) : List Byte :=
  let f := [c.pStart] ++ fitPayload (len - 3) payload ++ [0x00, c.pEnd]
  match checksum f with
  | .ok v => f.set (f.length - 2) v
  | .tooShort => f

/-- `BuildStatus(fs)`, the outbound full-status frame (R106, R133). -/
def buildStatus (c : Params) (fs : Byte) : List Byte :=
  sealFrame c c.pStatusLen [0x00, 0x00, 0x00, 0x00, fs, 0x00]

/-- `BuildFsChange(fs)`, the outbound footswitch-change frame (R107, R135). -/
def buildFsChange (c : Params) (fs : Byte) : List Byte :=
  sealFrame c c.pFschgLen [0x00, 0x02, fs, 0x00]

/-- `LedStatus(f)`: the byte at index 3, where the bytes at indices 1 and 2 are both zero (R137). -/
def ledStatus (f : List Byte) : Option Byte :=
  if f[1]? = some 0x00 ∧ f[2]? = some 0x00 then f[3]? else none

/-- RESULT of CKSUM (R132). -/
def checksumResultWord : ChecksumResult → Word
  | .ok v => resultSome v
  | .tooShort => resultFailed tooShortCode

/-- RESULT of LEDST's extractor (R138, R45). -/
def ledResultWord : Option Byte → Word
  | some v => resultSome v
  | none => resultNone

/-- A built frame goes to the staging buffer, and RESULT.VALUE is its checksum byte, at index len−2 (R134, R136). -/
def State.stageBuilt (f : List Byte) (s : State) : State :=
  { s with fbuf := overlay f s.fbuf, flen := flenOf f.length, result := resultSome (f.getD (f.length - 2) 0) }

/-- CKSUM, which reads no parameter (R132). -/
def execCksum (s : State) : Host.Outcome State Fault Refusal :=
  .next { s with result := checksumResultWord (checksum s.operand) }

/-- BSTAT on a configuration (R134). -/
def runBstat (c : Params) (fs : Byte) (s : State) : Host.Outcome State Fault Refusal :=
  .next (s.stageBuilt (buildStatus c fs))

/-- BSTAT at the default configuration (R134). -/
def execBstat (fs : Byte) (s : State) : Host.Outcome State Fault Refusal := runBstat Params.hw fs s

/-- BFSCHG on a configuration (R136). -/
def runBfschg (c : Params) (fs : Byte) (s : State) : Host.Outcome State Fault Refusal :=
  .next (s.stageBuilt (buildFsChange c fs))

/-- BFSCHG at the default configuration (R136). -/
def execBfschg (fs : Byte) (s : State) : Host.Outcome State Fault Refusal := runBfschg Params.hw fs s

/-- LEDST on a configuration: its operand is `P_RX_LEN` bytes (R138). -/
def runLedst (c : Params) (s : State) : Host.Outcome State Fault Refusal :=
  if s.flen.val ≠ c.pRxLen then .next (commandFault .badLength s)
  else .next { s with result := ledResultWord (ledStatus s.operand) }

/-- LEDST at the default configuration (R138). -/
def execLedst (s : State) : Host.Outcome State Fault Refusal := runLedst Params.hw s

end Sys2Proof.Machine
end

