-- ==== Sys2Proof/Machine/Assembler.lean ====
section
/-! DEFINITION. The incremental assembler: the classification function `Update` and the command AFEED (spec/41_assembler.md). -/

namespace Sys2Proof.Machine

/-- Why an accumulator is invalid (R150). -/
inductive InvalidReason where
  | invalidStart | tooLong | invalidEnd | checksumErr
deriving DecidableEq, Repr

/-- The error of a reason (R155, R231). -/
def InvalidReason.err : InvalidReason → Err
  | .invalidStart => .invalidStart
  | .tooLong => .tooLong
  | .invalidEnd => .invalidEnd
  | .checksumErr => .checksumErr

/-- The tagged result of `Update` (R12, R150). -/
inductive UpdateResult where
  | incomplete (acc : List Byte)
  | complete (frame : List Byte)
  | invalid (reason : InvalidReason)
deriving DecidableEq, Repr

/-- `Update(acc, b, T)`, with its checks in the order of R151: the capacity guard, the append, then the start, the
length, the end marker and the checksum. -/
def update (c : Params) (acc : List Byte) (b : Byte) (target : Nat) : UpdateResult :=
  if target ≤ acc.length then
    if acc.head? ≠ some c.pStart then .invalid .invalidStart else .invalid .tooLong
  else
    let a := acc ++ [b]
    if a.head? ≠ some c.pStart then .invalid .invalidStart
    else if a.length < target then .incomplete a
    else if a[target - 1]? ≠ some c.pEnd then .invalid .invalidEnd
    else if checksum a ≠ .ok (a.getD (target - 2) 0) then .invalid .checksumErr
    else .complete a

/-- RESULT of AFEED: VALUE is FLEN after the append (R155). -/
def afeedResultWord (flen : Nat) : UpdateResult → Word
  | .incomplete _ => resultWord (BitVec.ofNat 8 flen) 0 0 true
  | .complete _ => resultWord (BitVec.ofNat 8 flen) 1 0 true
  | .invalid r => resultWord (BitVec.ofNat 8 flen) 2 r.err.code true

/-- The staging buffer after AFEED's byte: the byte is kept where the accumulator had room, whatever the verdict (R155). -/
def State.feed (b : Byte) (target : Nat) (s : State) : State :=
  if s.flen.val < target then s.stageAppend b else s

/-- AFEED on a configuration (R155). -/
def runAfeed (c : Params) (b t : Byte) (s : State) : Host.Outcome State Fault Refusal :=
  if t.toNat < 3 ∨ c.pEntryMax < t.toNat then .next (commandFault .badLength s)
  else
    .next { s.feed b t.toNat with
      result := afeedResultWord (s.feed b t.toNat).flen.val (update c s.operand b t.toNat) }

/-- AFEED at the default configuration (R155). -/
def execAfeed (b t : Byte) (s : State) : Host.Outcome State Fault Refusal := runAfeed Params.hw b t s

end Sys2Proof.Machine
end

