-- ==== Sys2Proof/Machine/Session.lean ====
section
/-! DEFINITION. The session state machine, the echo-verifying transmitter and the command TICK (spec/42_session.md). -/

namespace Sys2Proof.Machine

/-- What one session step does (R186). -/
inductive StepResult where
  /-- It replaced `S` or consumed a line byte. -/
  | progress (s : State)
  /-- It did neither, and changed nothing. -/
  | quiescent
  /-- The line holds the block until the platform resets it (R172, R260): the state at that time. -/
  | heldToReset (s : State)
  /-- The block takes no step any more (R172), or no run reaches this (R33). -/
  | stuck (f : Fault)
deriving DecidableEq, Repr

/-- `deliver f`: the frame goes to the receive queue, or is dropped with RxQueueFull (R183). -/
def deliver (c : Params) (f : List Byte) (s : State) : State :=
  match pushBounded c.pRxqCap f s.rxq with
  | some q => { s with rxq := q }
  | none => raiseErr .rxQueueFull s

/-- Idle (R176): receiving comes before sending. -/
def stepIdle (m : Moment) (s : State) : StepResult :=
  if s.lineReadable then .progress { s with session := .receiving [] }
  else
    match s.txq with
    | [] => .quiescent
    | buf :: rest =>
      if m.busy then .quiescent
      else .progress { s with txq := rest, session := .sending buf 0 }

/-- Sending (R177): the byte at the cursor is handed to the line. -/
def stepSending (c : Params) (m : Moment) (buf : List Byte) (cursor : Nat) (s : State) : StepResult :=
  match buf[cursor]? with
  | none => .stuck .cursorOutOfRange
  | some v =>
    match m.write with
    | .ok => .progress { s.handToLine v with session := .waitingEcho buf cursor (s.readNow c) }
    | .ioErr => .progress (sessionError .ioError (s.handToLine v))
    | .never => .stuck .writeNeverAccepted
    | .heldToReset => .heldToReset (s.handToLine v)

/-- WaitingEcho, the echo matched (R179). -/
def echoMatched (c : Params) (buf : List Byte) (cursor : Nat) (s : State) : State :=
  if cursor + 1 = buf.length then { s with session := .waitingReply (s.readNow c) }
  else { s with session := .sending buf (cursor + 1) }

/-- WaitingEcho (R178 to R180): a readable item is handled before the timeout, an error before the compare. -/
def stepWaitingEcho (c : Params) (buf : List Byte) (cursor : Nat) (t0 : Time) (s : State) : StepResult :=
  match s.line.rx with
  | .ioErr :: rest => .progress (sessionError .ioError (s.takeRx rest))
  | .byte v :: rest =>
    match buf[cursor]? with
    | none => .stuck .cursorOutOfRange
    | some w =>
      if v = w then .progress (echoMatched c buf cursor (s.takeRx rest))
      else .progress (sessionError .echoMismatch (s.takeRx rest))
  | [] =>
    if timedOut c (s.readNow c) t0 c.pEchoTimeoutUs then .progress (sessionError .echoTimeout s)
    else .quiescent

/-- WaitingReply (R181): readable comes before the timeout; no byte is consumed. -/
def stepWaitingReply (c : Params) (t0 : Time) (s : State) : StepResult :=
  if s.lineReadable then .progress { s with session := .receiving [] }
  else if timedOut c (s.readNow c) t0 c.pReplyTimeoutUs then .progress (sessionError .replyTimeout s)
  else .quiescent

/-- Receiving after the byte `v` (R182, R183). -/
def received (c : Params) (acc : List Byte) (v : Byte) (s : State) : State :=
  match update c acc v c.pRxLen with
  | .incomplete acc' => { s with session := .receiving acc' }
  | .complete f => { deliver c f s with session := .idle }
  | .invalid r => sessionError r.err s

/-- Receiving (R182): one byte a step, and no timeout (R184). -/
def stepReceiving (c : Params) (acc : List Byte) (s : State) : StepResult :=
  match s.line.rx with
  | [] => .quiescent
  | .ioErr :: rest => .progress (sessionError .ioError (s.takeRx rest))
  | .byte v :: rest => .progress (received c acc v (s.takeRx rest))

/-- `Step(S)`: one arm for each variant of the session (R176 to R184). `m` is what the line answers in this step;
its items and its time are in `s` already (`State.beginStep`). -/
def sessionStep (c : Params) (m : Moment) (s : State) : StepResult :=
  match s.session with
  | .idle => stepIdle m s
  | .sending buf cursor => stepSending c m buf cursor s
  | .waitingEcho buf cursor t0 => stepWaitingEcho c buf cursor t0 s
  | .waitingReply t0 => stepWaitingReply c t0 s
  | .receiving acc => stepReceiving c acc s

/-- RESULT of TICK: VALUE says whether any step made progress (R190). -/
def tickResultWord (progressAny : Bool) : Word := resultSome (if progressAny then 1 else 0)

/-- TICK's loop (R190). `fuel` bounds the number of session steps: `tickFuel` is enough for every line that does not
flood (R191). A reset by the platform abandons the TICK (R260). -/
def tickLoop (c : Params) : (fuel : Nat) → (progressAny repolled : Bool) → State → Host.Outcome State Fault Refusal
  | 0, _, _, _ => .fault .tickNeverEnds
  | fuel + 1, progressAny, repolled, s =>
    if s.line.flooding then .fault .tickNeverEnds
    else if s.line.nextMoment.reset then .next s.beginStep.platformReset
    else
      match sessionStep c s.line.nextMoment s.beginStep with
      | .progress s' => tickLoop c fuel true repolled s'
      | .quiescent =>
        if c.pRepoll && !repolled then tickLoop c fuel progressAny true (s.beginStep.wait c.pRepollDelayUs)
        else .next { s.beginStep with result := tickResultWord progressAny }
      | .heldToReset s' => .next s'.platformReset
      | .stuck f => .fault f

/-- How many items the line supplies: those that wait and those its script lets arrive (R191). -/
def Line.supply (l : Line) : Nat := l.rx.length + (l.script.map (fun m => m.arrive.length)).sum

/-- A session's part of the bound of R191. -/
def Session.weight : Session → Nat
  | .receiving _ => 0
  | .idle => 1
  | .waitingReply _ => 2
  | .waitingEcho _ _ _ => 2
  | .sending _ _ => 3

/-- A bound on the progress steps of one TICK, linear in what the line supplies and the send queue (R191). -/
def State.tickBound (s : State) : Nat := 2 * s.line.supply + 3 * s.txq.length + s.session.weight

/-- The steps TICK may take: the bound, the re-poll's quiescent step and the last one. -/
def State.tickFuel (s : State) : Nat := s.tickBound + 2

/-- TICK on a configuration (R190). -/
def runTick (c : Params) (s : State) : Host.Outcome State Fault Refusal := tickLoop c s.tickFuel false false s

/-- TICK at the default configuration (R190). -/
def execTick (s : State) : Host.Outcome State Fault Refusal := runTick Params.hw s

end Sys2Proof.Machine
end

