-- ==== Sys2Proof/Syntax.lean ====
section
/-! DEFINITION. The eight host commands of the block, one constructor for each row of spec/opcode_table.json (R101). -/

namespace Sys2Proof

/-- The block's "instructions": the commands a host writes to CMD (R2, R101).
The byte operands of ENQ, CKSUM and LEDST are the staging buffer's, not fields of the word (R103). -/
inductive Instr where
  /-- TICK: advance the session until quiescent (R190). -/
  | tick
  /-- ENQ: queue the staging buffer for sending (R213). -/
  | enq
  /-- POP: take the oldest received frame into the staging buffer (R216). -/
  | pop
  /-- CKSUM: the checksum of the staging buffer (R132). -/
  | cksum
  /-- BSTAT: build the full-status frame for a footswitch byte, operand A (R134). -/
  | bstat (fs : Byte)
  /-- BFSCHG: build the footswitch-change frame for a footswitch byte, operand A (R136). -/
  | bfschg (fs : Byte)
  /-- LEDST: the status byte of the staging buffer (R138). -/
  | ledst
  /-- AFEED: feed byte A to the assembler over the staging buffer, with target length B (R155). -/
  | afeed (b t : Byte)
deriving DecidableEq, Repr

end Sys2Proof
end

