-- ==== Sys2Proof/Machine/Dispatch.lean ====
section
/-! DEFINITION. The dispatch of the eight commands (spec/30_encoding.md R101). -/

namespace Sys2Proof.Machine

def exec (i : Instr) (s : State) : Host.Outcome State Fault Refusal :=
  match i with
  | .tick => Sys2Proof.Machine.execTick s
  | .enq => Sys2Proof.Machine.execEnq s
  | .pop => Sys2Proof.Machine.execPop s
  | .cksum => Sys2Proof.Machine.execCksum s
  | .bstat fs => Sys2Proof.Machine.execBstat fs s
  | .bfschg fs => Sys2Proof.Machine.execBfschg fs s
  | .ledst => Sys2Proof.Machine.execLedst s
  | .afeed b t => Sys2Proof.Machine.execAfeed b t s

end Sys2Proof.Machine
end

