-- ==== Sys2Proof/Machine/Configured.lean ====
section
/-! DEFINITION. The commands on any configuration of spec/00_scope.md R6 and R3, for a model that varies a parameter.
`exec` is this at the defaults. -/

namespace Sys2Proof.Machine

/-- What a command does on a configuration (R3, R6). -/
def execOn (c : Params) (i : Instr) (s : State) : Host.Outcome State Fault Refusal :=
  match i with
  | .tick => runTick c s
  | .enq => runEnq c s
  | .pop => execPop s
  | .cksum => execCksum s
  | .bstat fs => runBstat c fs s
  | .bfschg fs => runBfschg c fs s
  | .ledst => runLedst c s
  | .afeed b t => runAfeed c b t s

end Sys2Proof.Machine
end

