-- ==== Sys2Proof/Decode.lean ====
section
/-! DEFINITION. The command word's format, the opcode map, the decoder and the encoder (spec/30_encoding.md R100 to R104). -/

namespace Sys2Proof

/-- The field OPC, bits [7:0] (R100). -/
def fieldOpc (w : Word) : Byte := w.extractLsb' 0 8
/-- The field A, bits [15:8] (R100). -/
def fieldA (w : Word) : Byte := w.extractLsb' 8 8
/-- The field B, bits [23:16] (R100). -/
def fieldB (w : Word) : Byte := w.extractLsb' 16 8
/-- The reserved field, bits [31:24], which must be 0 (R100). -/
def fieldReserved (w : Word) : Byte := w.extractLsb' 24 8

/-- One row of the opcode map: a word w selects it when `(w AND mask) = match` (R101). -/
structure OpcodeRow where
  mnemonic : String
  mask : Word
  matchBits : Word
  /-- The command of a word that selects the row: its operands are the fields A and B (R103). -/
  command : Byte → Byte → Instr

/-- The opcode map of R101, row by row as the spec gives it. -/
def opcodeMap : List OpcodeRow :=
  [ ⟨"TICK",   0xFFFFFFFF, 0x00000001, fun _ _ => .tick⟩,
    ⟨"ENQ",    0xFFFFFFFF, 0x00000002, fun _ _ => .enq⟩,
    ⟨"POP",    0xFFFFFFFF, 0x00000003, fun _ _ => .pop⟩,
    ⟨"CKSUM",  0xFFFFFFFF, 0x00000010, fun _ _ => .cksum⟩,
    ⟨"BSTAT",  0xFFFF00FF, 0x00000011, fun a _ => .bstat a⟩,
    ⟨"BFSCHG", 0xFFFF00FF, 0x00000012, fun a _ => .bfschg a⟩,
    ⟨"LEDST",  0xFFFFFFFF, 0x00000013, fun _ _ => .ledst⟩,
    ⟨"AFEED",  0xFF0000FF, 0x00000020, fun a b => .afeed a b⟩ ]

/-- Why a word selects no row: the three kinds that R102 names. Each is the same BadCommand. -/
inductive Reject where
  /-- A nonzero reserved byte [31:24]. -/
  | reservedByte
  /-- An OPC that is not in the table. -/
  | unknownOpc
  /-- A nonzero operand byte that the command does not use. -/
  | unusedOperand
deriving DecidableEq, Repr

/-- Whether a word selects a row (R101). -/
def OpcodeRow.selects (r : OpcodeRow) (w : Word) : Bool := w &&& r.mask == r.matchBits

/-- The kind of a word that selects no row (R102). -/
def rejectOf (w : Word) : Reject :=
  if fieldReserved w ≠ 0 then .reservedByte
  else if opcodeMap.any (fun r => fieldOpc r.matchBits == fieldOpc w) then .unusedOperand
  else .unknownOpc

/-- The block compares the word with each row; the row it selects gives the command (R102, R103). -/
def decode (w : Word) : Except Reject Instr :=
  match opcodeMap.find? (·.selects w) with
  | some r => .ok (r.command (fieldA w) (fieldB w))
  | none => .error (rejectOf w)

/-- A command word from its fields, the reserved byte 0 (R100). -/
def wordOf (opc a b : Byte) : Word := place opc 0 ||| place a 8 ||| place b 16

/-- The word of a command (R101, R111). -/
def encode : Instr → Word
  | .tick => wordOf 0x01 0 0
  | .enq => wordOf 0x02 0 0
  | .pop => wordOf 0x03 0 0
  | .cksum => wordOf 0x10 0 0
  | .bstat fs => wordOf 0x11 fs 0
  | .bfschg fs => wordOf 0x12 fs 0
  | .ledst => wordOf 0x13 0 0
  | .afeed b t => wordOf 0x20 b t

/-- The 32-bit command word whose low `nbits` bits are those of `w` and whose other bits are 0. -/
def tableWord (nbits w : Nat) : Word := BitVec.ofNat 32 (w % 2 ^ nbits)

/-- The command the decoder reads from a word numbered as spec/opcode_table.json numbers it. -/
def decodeTableWord (nbits w : Nat) : Option Instr :=
  match decode (tableWord nbits w) with
  | .ok i => some i
  | .error _ => none

end Sys2Proof
end

