-- ==== Sys2Proof/Machine/HostSyntax.lean ====
section
/-! DEFINITION. The operations of a host program as spec/30_encoding.md R111 to R113 names them: bus accesses by
register name, the command mnemonics with their immediates, and the pseudo-instructions `fset` and `clrerr`. -/

namespace Sys2Proof

/-- The registers a host program names (R112). -/
inductive Reg where
  | cmd | status | err | result | flen | lastErr
  | fbuf (k : Fin 4)
deriving DecidableEq, Repr

/-- The offset of a register from `P_BASE` (R71). -/
def Reg.offset : Reg → Nat
  | .cmd => 0x00
  | .status => 0x04
  | .err => 0x08
  | .result => 0x0C
  | .flen => 0x10
  | .lastErr => 0x14
  | .fbuf k => 0x20 + 4 * k.val

/-- One operation of a host program (R111 to R113). Immediates are numbers as the program writes them; whether they
fit is `HostOp.wf`. -/
inductive HostOp where
  /-- `wr REG, #v` -/
  | wr (r : Reg) (v : Nat)
  /-- `rd REG` -/
  | rd (r : Reg)
  | tick
  | enq
  | pop
  | cksum
  | bstat (fs : Nat)
  | bfschg (fs : Nat)
  | ledst
  | afeed (b t : Nat)
  /-- `fset b0, b1, …`: load the staging buffer (R113). -/
  | fset (bs : List Nat)
  /-- `clrerr`: clear every error bit (R113). -/
  | clrerr
deriving DecidableEq, Repr

end Sys2Proof
end

