-- ==== Sys2Proof/Machine/Window.lean ====
section
/-! DEFINITION. The register window: which host accesses the block admits, the address map, and what a read and a write of
each register do (spec/20_memory.md R71 to R79). What a command does is an argument, `run`, so that the window is said once for
every configuration. -/

namespace Sys2Proof.Machine

/-- The accesses the block admits: 32 bits, at a multiple of 4, inside the window (R76). The displacement `off` is the
access's address less `P_BASE`. -/
def admitted (off : Int) (size : Nat) : Bool :=
  size == 4 && decide (off % 4 = 0) && decide (0 ≤ off) && decide (off < 0x40)

/-- The register at an offset of the window; `none` is a reserved offset (R71). -/
def regAt : Nat → Option Reg
  | 0x00 => some .cmd
  | 0x04 => some .status
  | 0x08 => some .err
  | 0x0C => some .result
  | 0x10 => some .flen
  | 0x14 => some .lastErr
  | 0x20 => some (.fbuf 0)
  | 0x24 => some (.fbuf 1)
  | 0x28 => some (.fbuf 2)
  | 0x2C => some (.fbuf 3)
  | _ => none

/-- What a read answers: 0 for CMD (R43) and for a reserved offset (R73). No read changes the block (R77). -/
def readReg (r : Option Reg) (s : State) : Word :=
  match r with
  | none => 0
  | some .cmd => 0
  | some .status => s.status
  | some .err => s.err
  | some .result => s.result
  | some .flen => BitVec.ofNat 32 s.flen.val
  | some .lastErr => s.lastErr.zeroExtend 32
  | some (.fbuf k) => fbufWord s.fbuf k

/-- What commands do on one configuration. -/
abbrev CommandMeaning := Instr → State → Host.Outcome State Fault Refusal

/-- A write to CMD executes one command, or is a BadCommand (R43, R102). -/
def writeCmd (run : CommandMeaning) (v : Word) (s : State) : Host.Outcome State Fault Refusal :=
  match decode v with
  | .ok i => run i s
  | .error _ => .next (commandFault .badCommand s)

/-- A write to FLEN: the whole 32-bit value is compared; BadLength leaves FLEN and RESULT as they were (R41, R237). -/
def writeFlen (v : Word) (s : State) : State :=
  if v.toNat ≤ 16 then { s with flen := flenOf v.toNat } else raiseErr .badLength s

/-- What a write does; one to a read-only register or a reserved offset is ignored (R73, R77). -/
def writeReg (run : CommandMeaning) (r : Option Reg) (v : Word) (s : State) : Host.Outcome State Fault Refusal :=
  match r with
  | none => .next s
  | some .cmd => writeCmd run v s
  | some .status => .next s
  | some .err => .next { s with err := errAfterWrite s.err v }
  | some .result => .next s
  | some .flen => .next (writeFlen v s)
  | some .lastErr => .next s
  | some (.fbuf k) => .next { s with fbuf := fbufSetWord s.fbuf k v }

/-- What the outside world does to the block next: a host access, performed whole before the next one (R78, R80), or the
platform's reset (R260). A read's value goes to the observation of the run (R282). -/
def performInput (run : CommandMeaning) (i : Input) (s : State) : Host.Outcome State Fault Refusal :=
  match i with
  | .write off size v => if admitted off size then writeReg run (regAt off.toNat) v s else .fault .badHostAccess
  | .read off size =>
    if admitted off size then .next { s with reads := s.reads ++ [readReg (regAt off.toNat) s] }
    else .fault .badHostAccess
  | .platformReset => .next s.platformReset

/-- The next input, performed whole. With none pending the block is inactive and keeps all its state (R249, R262). -/
def performNext (run : CommandMeaning) (s : State) : Host.Outcome State Fault Refusal :=
  match s.inputs with
  | [] => .next s
  | i :: rest => performInput run i { s with inputs := rest }

/-- A host write of `size` bytes at a bus address (R76). -/
def writeAt (addr size : Nat) (v : Word) : Input := .write ((addr : Int) - Config.pBase) size v

/-- A host read of `size` bytes at a bus address (R76). -/
def readAt (addr size : Nat) : Input := .read ((addr : Int) - Config.pBase) size

/-- The host's write of a command word to CMD (R100). -/
def commandInput (w : Word) : Input := .write 0 4 w

end Sys2Proof.Machine
end

