-- ==== Sys2Proof/Machine/Step.lean ====
section
/-! DEFINITION. One step of the machine. The block fetches no instructions (spec/10_state.md R31): a step performs the host's
next access, and a command is the write of its word to CMD (spec/30_encoding.md R100). -/

namespace Sys2Proof.Machine

/-- One step, at the default configuration. -/
def step (s : State) : Host.Outcome State Fault Refusal := performNext exec s

/-- One step on a configuration (R3, R6). -/
def stepOn (c : Params) (s : State) : Host.Outcome State Fault Refusal := performNext (execOn c) s

/-- The state in which the host's next access is the write of that command word to CMD. -/
def State.withFetchWord (s : State) (nbits w : Nat) : State :=
  { s with inputs := commandInput (tableWord nbits w) :: s.inputs }

end Sys2Proof.Machine
end

