-- ==== Sys2Proof/WellFormed.lean ====
section
/-! DEFINITION. Which host operations assemble (R111, R113). A command of `Instr` needs no check of its own: its
operands are bytes by their type, and every byte is a legal operand of the encoding (R103). -/

namespace Sys2Proof

/-- An immediate fits in 8 bits (R111). -/
def fitsByte (n : Nat) : Bool := decide (n < 0x100)

/-- A register value fits in 32 bits (R112: `#v32`). -/
def fitsWord (n : Nat) : Bool := decide (n < 0x100000000)

/-- The operation assembles: "an immediate that does not fit in 8 bits is an assembly error" (R111), `wr` takes a
32-bit value (R112) and `fset` takes 0 to 16 bytes (R113). -/
def HostOp.wf : HostOp → Bool
  | .wr _ v => fitsWord v
  | .rd _ => true
  | .tick => true
  | .enq => true
  | .pop => true
  | .cksum => true
  | .bstat fs => fitsByte fs
  | .bfschg fs => fitsByte fs
  | .ledst => true
  | .afeed b t => fitsByte b && fitsByte t
  | .fset bs => decide (bs.length ≤ 16) && bs.all fitsByte
  | .clrerr => true

end Sys2Proof
end

