-- ==== Sys2Proof/Machine/HostProgram.lean ====
section
/-! DEFINITION. The assembly of a host program's operations into bus accesses (spec/30_encoding.md R111 to R113). -/

namespace Sys2Proof.Machine

/-- The bus write `wr REG, #v` performs (R112). -/
def wrInput (r : Reg) (v : Word) : Input := .write r.offset 4 v

/-- The bus read `rd REG` performs (R112). -/
def rdInput (r : Reg) : Input := .read r.offset 4

/-- Byte i of an `fset`: the bytes from the list's end to 15 are 0x00 (R113). -/
def fsetByte (bs : List Nat) (i : Nat) : Byte := BitVec.ofNat 8 (bs.getD i 0)

/-- Word k of an `fset`, packed as R74 packs it (R113). -/
def fsetWord (bs : List Nat) (k : Nat) : Word :=
  place (fsetByte bs (4 * k)) 0 ||| place (fsetByte bs (4 * k + 1)) 8 ||| place (fsetByte bs (4 * k + 2)) 16
    ||| place (fsetByte bs (4 * k + 3)) 24

/-- The command of a host operation that is a command mnemonic (R111). -/
def hostCommand : HostOp → Option Instr
  | .tick => some .tick
  | .enq => some .enq
  | .pop => some .pop
  | .cksum => some .cksum
  | .bstat fs => some (.bstat (BitVec.ofNat 8 fs))
  | .bfschg fs => some (.bfschg (BitVec.ofNat 8 fs))
  | .ledst => some .ledst
  | .afeed b t => some (.afeed (BitVec.ofNat 8 b) (BitVec.ofNat 8 t))
  | .wr _ _ => none
  | .rd _ => none
  | .fset _ => none
  | .clrerr => none

/-- The accesses a host operation expands to (R112, R113). -/
def expandOp (op : HostOp) : List Input :=
  match op with
  | .wr r v => [wrInput r (BitVec.ofNat 32 v)]
  | .rd r => [rdInput r]
  | .fset bs =>
    [wrInput (.fbuf 0) (fsetWord bs 0), wrInput (.fbuf 1) (fsetWord bs 1), wrInput (.fbuf 2) (fsetWord bs 2),
      wrInput (.fbuf 3) (fsetWord bs 3), wrInput .flen (BitVec.ofNat 32 bs.length)]
  | .clrerr => [wrInput .err errClearMask]
  | .tick => [wrInput .cmd (encode .tick)]
  | .enq => [wrInput .cmd (encode .enq)]
  | .pop => [wrInput .cmd (encode .pop)]
  | .cksum => [wrInput .cmd (encode .cksum)]
  | .bstat fs => [wrInput .cmd (encode (.bstat (BitVec.ofNat 8 fs)))]
  | .bfschg fs => [wrInput .cmd (encode (.bfschg (BitVec.ofNat 8 fs)))]
  | .ledst => [wrInput .cmd (encode .ledst)]
  | .afeed b t => [wrInput .cmd (encode (.afeed (BitVec.ofNat 8 b) (BitVec.ofNat 8 t)))]

/-- Assembly: the accesses, or an assembly error for an immediate that does not fit (R111). -/
def assemble (op : HostOp) : Option (List Input) := if op.wf then some (expandOp op) else none

/-- A program's accesses in order; an error in one operation is an error of the program. -/
def assembleProgram : List HostOp → Option (List Input)
  | [] => some []
  | op :: rest =>
    match assemble op, assembleProgram rest with
    | some a, some b => some (a ++ b)
    | _, _ => none

end Sys2Proof.Machine
end

