-- ==== Sys2Proof/Safety.lean ====
section
/-! DEFINITION. What a good state is (the invariants the spec states), and what an operation may leave alone. -/

namespace Sys2Proof.Machine

/-- A byte sequence is a frame: START first, END last, the checksum at length−2 (R13, R105). -/
structure IsFrame (c : Params) (f : List Byte) : Prop where
  length_ge : 3 ≤ f.length
  start : f.head? = some c.pStart
  stop : f.getLast? = some c.pEnd
  checksum_eq : checksum f = .ok (f.getD (f.length - 2) 0)

/-- The invariants of the session state (R33), and the width of its timestamps (R36). -/
def Session.Good (c : Params) : Session → Prop
  | .idle => True
  | .sending buf cursor => cursor < buf.length ∧ buf.length ≤ c.pEntryMax
  | .waitingEcho buf cursor t0 => cursor < buf.length ∧ buf.length ≤ c.pEntryMax ∧ t0 < c.timerModulus
  | .waitingReply t0 => t0 < c.timerModulus
  | .receiving acc => acc.length < c.pRxLen ∧ (acc = [] ∨ acc.head? = some c.pStart)

/-- What holds of the block between any two steps, on a configuration. -/
structure State.GoodOn (c : Params) (s : State) : Prop where
  /-- R33. -/
  session : s.session.Good c
  /-- `|TXQ| <= P_TXQ_CAP` (R37). -/
  txq_room : s.txq.length ≤ c.pTxqCap
  /-- Each entry of TXQ is 1 to P_ENTRY_MAX bytes (R37). -/
  txq_entries : ∀ e ∈ s.txq, 1 ≤ e.length ∧ e.length ≤ c.pEntryMax
  /-- `|RXQ| <= P_RXQ_CAP` (R38). -/
  rxq_room : s.rxq.length ≤ c.pRxqCap
  /-- Every entry of RXQ is a frame of exactly P_RX_LEN bytes (R38, R217). -/
  rxq_frames : ∀ f ∈ s.rxq, f.length = c.pRxLen ∧ IsFrame c f
  /-- Bits 0 and [31:13] of ERR read 0 (R46). -/
  err_reserved : s.err &&& ~~~errClearMask = 0
  /-- LAST_ERR is a code 1 to 12, or 0 (R48). -/
  lastErr_le : s.lastErr.toNat ≤ 12
  /-- LAST_ERR is 0 only if no error has been raised since reset (R48), and then no ERR bit is set. -/
  err_of_lastErr : s.lastErr = 0 → s.err = 0
  /-- Bits [11:10] and [31:17] of RESULT read 0 (R44). -/
  result_reserved : s.result &&& 0xFFFE0C00 = 0
  /-- VERDICT 3 is never written (R44). -/
  result_verdict : resultVerdict s.result ≠ 3
  /-- REASON is a code of R231, or 0 (R44). -/
  result_reason : (resultReason s.result).toNat ≤ 13

/-- What holds of the block between any two steps, at the default configuration. -/
abbrev State.Good (s : State) : Prop := s.GoodOn Params.hw

/-- The environment agents, the host's accesses and the observation are as before. -/
def State.SameEnv (s t : State) : Prop :=
  t.line = s.line ∧ t.now = s.now ∧ t.inputs = s.inputs ∧ t.reads = s.reads

/-- The session and both queues are as before. -/
def State.SameSession (s t : State) : Prop := t.session = s.session ∧ t.txq = s.txq ∧ t.rxq = s.rxq

/-- The staging buffer and its length are as before. -/
def State.SameStaging (s t : State) : Prop := t.fbuf = s.fbuf ∧ t.flen = s.flen

/-- The error registers are as before. -/
def State.SameErrors (s t : State) : Prop := t.err = s.err ∧ t.lastErr = s.lastErr

/-- No reset by the platform is scheduled during the session steps to come. -/
def Line.NoReset (l : Line) : Prop := ∀ m ∈ l.script, m.reset = false ∧ m.write ≠ .heldToReset

/-- The line answers every write, and it does not supply bytes for ever (R172, R191). -/
def Line.Live (l : Line) : Prop := l.ending = .quiet ∧ ∀ m ∈ l.script, m.write ≠ .never

/-- Nothing is readable in the next session step, and the platform does not reset the block before it. -/
def Line.SilentNext (l : Line) : Prop :=
  l.rx = [] ∧ l.nextMoment.arrive = [] ∧ l.nextMoment.reset = false ∧ l.flooding = false

/-- The sum of the bytes at indices 1 to n−3, index by index as R130 writes it. -/
def sumBetweenMarkers (f : List Byte) : Nat := ∑ i ∈ Finset.range (f.length - 3), (f.getD (i + 1) 0).toNat

/-- The 7-bit two's complement of a sum (R130). -/
def sevenBitComplement (sum : Nat) : Byte := BitVec.ofNat 8 ((0x80 - sum % 0x80) % 0x80)

/-- The same command, n times (R215). -/
def execTimes (c : Params) (i : Instr) : Nat → State → Host.Outcome State Fault Refusal
  | 0, s => .next s
  | n + 1, s =>
    match execOn c i s with
    | .next t => execTimes c i n t
    | .fault r => .fault r
    | .refused r => .refused r

/-- What a line that echoes each written byte at once does while the bytes of `buf` are sent, from the Idle step that
dequeues them: for each byte, the write is accepted, and then the byte itself is readable. -/
def echoScript (buf : List Byte) : List Moment :=
  ({} : Moment) :: buf.flatMap (fun b => [{}, { arrive := [.byte b] }])

/-- Among the words with the operation code `opc`, exactly those that `P` pairs with a command decode, and to that
command; every other word with that code selects no row (R101, R102). -/
def EncodedExactly (opc : Byte) (P : Word → Instr → Prop) : Prop :=
  ∀ (w : Word) (i : Instr), fieldOpc w = opc → (decode w = .ok i ↔ P w i)

/-- From the head of TICK's loop to a later one, by progress steps alone, with no reset by the platform before any of them. -/
inductive TickReaches (c : Params) : State → State → Prop
  | here (s : State) : TickReaches c s s
  | later (s s' u : State) : s.line.nextMoment.reset = false →
      sessionStep c s.line.nextMoment s.beginStep = .progress s' → TickReaches c s' u → TickReaches c s u

/-- One TICK, as R190's pseudocode reads: from `progress_any` and `repolled` and the state at the head of its loop to the
state at its end. No reset by the platform and no bound on the number of steps stands in it. -/
inductive TickRun (c : Params) : (progressAny repolled : Bool) → State → State → Prop
  /-- `if Step(S) made progress: progress_any = true ; continue` -/
  | progress (any rep : Bool) (s s' t : State) :
      sessionStep c s.line.nextMoment s.beginStep = .progress s' → TickRun c true rep s' t → TickRun c any rep s t
  /-- `if P_REPOLL and not repolled: wait P_REPOLL_DELAY_US ; repolled = true ; continue` -/
  | repoll (any : Bool) (s t : State) :
      sessionStep c s.line.nextMoment s.beginStep = .quiescent → c.pRepoll = true →
      TickRun c any true (s.beginStep.wait c.pRepollDelayUs) t → TickRun c any false s t
  /-- `break`, and `RESULT <- {VALUE = (progress_any ? 1 : 0), VALID = 1}` -/
  | ends (any rep : Bool) (s : State) :
      sessionStep c s.line.nextMoment s.beginStep = .quiescent → c.pRepoll = false ∨ rep = true →
      TickRun c any rep s { s.beginStep with result := if any then 0x00010001 else 0x00010000 }

end Sys2Proof.Machine
end

