-- ==== Sys2Proof/Certificates/Slice0/Obligations.lean ====
section
/-! DEFINITION. The statements for the provers. Each docstring names the rules of the spec that it formalises. -/

open Sys2Proof Sys2Proof.Machine

/-! ### Encoding -/

/-- R100, R101, R103: the decoder gives back every command from its word, with every operand byte. -/
def Obligations.DecodeEncodeRoundTrip : Prop :=
  ∀ i : Instr, decode (encode i) = .ok i

/-- R100, R101: each word stands for at most one command, the one whose word it is. -/
def Obligations.EncodeDecodeRoundTrip : Prop :=
  ∀ (w : Word) (i : Instr), decode w = .ok i → encode i = w

/-- R102, R104: at most one row of the opcode map matches a word; one does exactly where the reserved byte and the operand
bytes that the command does not use are zero; and a word that matches none raises BadCommand (code 11) and writes RESULT,
with no other effect. -/
def Obligations.WordSelectsOneRowOrFaults : Prop :=
  ∀ w : Word, (opcodeMap.filter (·.selects w)).length ≤ 1 ∧
    ((∃ r ∈ opcodeMap, w &&& r.mask = r.matchBits) ↔
      fieldReserved w = 0 ∧
        ((fieldOpc w ∈ [0x01#8, 0x02#8, 0x03#8, 0x10#8, 0x13#8] ∧ fieldA w = 0 ∧ fieldB w = 0) ∨
          (fieldOpc w ∈ [0x11#8, 0x12#8] ∧ fieldB w = 0) ∨ fieldOpc w = 0x20#8)) ∧
    ((∀ r ∈ opcodeMap, w &&& r.mask ≠ r.matchBits) →
      ∀ (s : State) (rest : List Input), s.inputs = writeAt Config.pBase 4 w :: rest →
        step s = .next { s with
          inputs := rest, err := s.err ||| 0x00000800, lastErr := 11, result := 0x0000B000 })

/-- R101: words written out from the opcode map decode to their commands, and words outside it to none. -/
def Obligations.SpecWordsDecode : Prop :=
  decode 0x00000001 = .ok .tick ∧ decode 0x00000002 = .ok .enq ∧ decode 0x00000003 = .ok .pop ∧
  decode 0x00000010 = .ok .cksum ∧ decode 0x0000FF11 = .ok (.bstat 0xFF) ∧ decode 0x00000112 = .ok (.bfschg 0x01) ∧
  decode 0x00000013 = .ok .ledst ∧ decode 0x0006F020 = .ok (.afeed 0xF0 0x06) ∧
  decode 0x00000000 = .error .unknownOpc ∧ decode 0x00000101 = .error .unusedOperand ∧
  decode 0x01060020 = .error .reservedByte

/-! ### One step, and the register window -/

/-- R43, R100: a step whose next access writes a word to CMD runs the command that the word decodes to, whole; so it is on
every configuration, and the default one is `step` with `exec`.
The pending accesses are a list in the state, the model's form (log entry 7). -/
def Obligations.StepRunsDecodedCommand : Prop :=
  (∀ (s : State) (w : Word) (i : Instr) (rest : List Input),
    s.inputs = writeAt Config.pBase 4 w :: rest → decode w = .ok i →
      step s = exec i { s with inputs := rest } ∧ ∀ c : Params, stepOn c s = execOn c i { s with inputs := rest }) ∧
  (∀ s : State, stepOn Params.hw s = step s) ∧ ∀ (i : Instr) (s : State), execOn Params.hw i s = exec i s

/-- R76: an access that is not 32 bits, not at a multiple of 4 from P_BASE, or outside the window is a fault of the access.
The fault is named in log entry 18. -/
def Obligations.UnadmittedAccessFaults : Prop :=
  ∀ (s : State) (addr size : Nat) (v : Word) (rest : List Input),
    size ≠ 4 ∨ ((addr : Int) - Config.pBase) % 4 ≠ 0 ∨ addr < Config.pBase ∨ Config.pBase + 0x40 ≤ addr →
    s.inputs = writeAt addr size v :: rest ∨ s.inputs = readAt addr size :: rest →
    step s = .fault .badHostAccess

/-- R77, R76: every admitted read completes and changes nothing of the block, the line or the timer. -/
def Obligations.ReadsHaveNoSideEffect : Prop :=
  ∀ (s : State) (k : Nat) (rest : List Input), k < 16 → s.inputs = readAt (Config.pBase + 4 * k) 4 :: rest →
    ∃ v, step s = .next { s with inputs := rest, reads := s.reads ++ [v] }

/-- R43, R46, R44, R72, R48, R73: what a read of each register other than STATUS and FBUF answers. -/
def Obligations.RegistersReadTheirState : Prop :=
  ∀ (s : State) (off : Nat) (rest : List Input) (v : Word), s.inputs = readAt (Config.pBase + off) 4 :: rest →
    (off = 0x00 ∧ v = 0) ∨ (off = 0x08 ∧ v = s.err) ∨ (off = 0x0C ∧ v = s.result) ∨
      (off = 0x10 ∧ v = BitVec.ofNat 32 s.flen.val) ∨ (off = 0x14 ∧ v = BitVec.ofNat 32 s.lastErr.toNat) ∨
      (off ∈ [0x18, 0x1C, 0x30, 0x34, 0x38, 0x3C] ∧ v = 0) →
    step s = .next { s with inputs := rest, reads := s.reads ++ [v] }

/-- R52: the fields of STATUS and its reserved bits, in every good state; and a write to it is ignored. -/
def Obligations.StatusShowsSessionAndCounts : Prop :=
  ∀ s : State, s.Good →
    (∀ rest : List Input, s.inputs = readAt (Config.pBase + 0x04) 4 :: rest →
      ∃ v : Word, step s = .next { s with inputs := rest, reads := s.reads ++ [v] } ∧
        v.extractLsb' 0 3 = (match s.session with
          | .idle => 0#3 | .sending _ _ => 1#3 | .waitingEcho _ _ _ => 2#3 | .waitingReply _ => 3#3 | .receiving _ => 4#3) ∧
        (v.extractLsb' 4 4).toNat = (match s.session with
          | .sending _ c => c | .waitingEcho _ c _ => c | .idle => 0 | .waitingReply _ => 0 | .receiving _ => 0) ∧
        (v.extractLsb' 8 5).toNat = (match s.session with
          | .receiving acc => acc.length | .idle => 0 | .sending _ _ => 0 | .waitingEcho _ _ _ => 0 | .waitingReply _ => 0) ∧
        (v.extractLsb' 16 3).toNat = s.txq.length ∧ (v.extractLsb' 20 2).toNat = s.rxq.length ∧
        v &&& 0xFFC8E008 = 0) ∧
    (∀ (v : Word) (rest : List Input), s.inputs = writeAt (Config.pBase + 0x04) 4 v :: rest →
      step s = .next { s with inputs := rest })

/-- R73: a reserved offset reads as 0; a write to one, or to a read-only register, is ignored, with no other effect. -/
def Obligations.ReservedAndReadOnlyOffsets : Prop :=
  ∀ (s : State) (off : Nat) (v : Word) (rest : List Input),
    (off ∈ [0x18, 0x1C, 0x30, 0x34, 0x38, 0x3C] → s.inputs = readAt (Config.pBase + off) 4 :: rest →
      step s = .next { s with inputs := rest, reads := s.reads ++ [0] }) ∧
    (off ∈ [0x18, 0x1C, 0x30, 0x34, 0x38, 0x3C] ∨ off ∈ [0x04, 0x0C, 0x14] →
      s.inputs = writeAt (Config.pBase + off) 4 v :: rest → step s = .next { s with inputs := rest })

/-- R74: FBUF word k is four bytes, the least significant first: a read gives them, and a write stores them and changes
nothing else, FLEN among it. -/
def Obligations.FbufWordsAreLittleEndian : Prop :=
  ∀ (s : State) (k : Fin 4) (rest : List Input),
    (s.inputs = readAt (Config.pBase + 0x20 + 4 * k.val) 4 :: rest →
      ∃ v : Word, step s = .next { s with inputs := rest, reads := s.reads ++ [v] } ∧
        ∀ j : Fin 4, v.extractLsb' (8 * j.val) 8 = s.fbuf[4 * k.val + j.val]) ∧
    (∀ v : Word, s.inputs = writeAt (Config.pBase + 0x20 + 4 * k.val) 4 v :: rest →
      ∃ fbuf : Vector Byte 16, step s = .next { s with inputs := rest, fbuf := fbuf } ∧
        ∀ i : Fin 16, fbuf[i] = if i.val / 4 = k.val then v.extractLsb' (8 * (i.val % 4)) 8 else s.fbuf[i])

/-- R72: a read of FLEN answers it; a write stores 0 to 16, and any other 32-bit value raises BadLength (code 12) and leaves
FLEN, and RESULT (R237), as they were. -/
def Obligations.FlenReadsAndWrites : Prop :=
  ∀ (s : State) (rest : List Input),
    (s.inputs = readAt (Config.pBase + 0x10) 4 :: rest →
      step s = .next { s with inputs := rest, reads := s.reads ++ [BitVec.ofNat 32 s.flen.val] }) ∧
    ∀ v : Word, s.inputs = writeAt (Config.pBase + 0x10) 4 v :: rest →
      (∀ n : Fin 17, v.toNat = n.val → step s = .next { s with inputs := rest, flen := n }) ∧
      (16 < v.toNat → step s = .next { s with inputs := rest, err := s.err ||| 0x00001000, lastErr := 12 })

/-- R47: a host write to ERR clears exactly the bits among 1 to 12 that are written as 1, reserved bits stay 0 from a good
state, and no command clears a bit, TICK with its session steps among them (where no reset of the platform ends it). -/
def Obligations.ErrClearsOnlyByHostWrite : Prop :=
  (∀ (s : State) (v : Word) (rest : List Input), s.inputs = writeAt (Config.pBase + 0x08) 4 v :: rest →
    ∃ e : Word, step s = .next { s with inputs := rest, err := e } ∧
      (∀ n : Nat, n < 32 → e.getLsbD n = (s.err.getLsbD n && !(decide (1 ≤ n) && decide (n ≤ 12) && v.getLsbD n))) ∧
      (s.Good → e &&& 0xFFFFE001 = 0)) ∧
  (∀ (i : Instr) (s t : State), s.line.NoReset → exec i s = .next t → s.err &&& t.err = s.err)

/-- R113: `fset` loads all 16 bytes of FBUF, the bytes after its list with 0x00, and FLEN, whatever accesses follow it. -/
def Obligations.FsetLoadsStagingBuffer : Prop :=
  ∀ (s : State) (bs : List Nat) (a rest : List Input), bs.length ≤ 16 → (∀ b ∈ bs, b < 256) →
    assemble (.fset bs) = some a → s.inputs = a ++ rest →
    ∃ (fbuf : Vector Byte 16) (flen : Fin 17),
      Host.Core.run Sys2Proof.core 5 s = .next { s with inputs := rest, fbuf := fbuf, flen := flen } ∧
      (∀ i : Fin 16, (fbuf[i]).toNat = bs.getD i.val 0) ∧ flen.val = bs.length

/-- R111: each command mnemonic assembles to the write to CMD of the word of R111's table, exactly when its immediates fit in 8 bits. -/
def Obligations.CommandMnemonicsAssemble : Prop :=
  (assemble .tick = some [.write 0 4 0x00000001] ∧ assemble .enq = some [.write 0 4 0x00000002] ∧
    assemble .pop = some [.write 0 4 0x00000003] ∧ assemble .cksum = some [.write 0 4 0x00000010] ∧
    assemble .ledst = some [.write 0 4 0x00000013]) ∧
  (∀ fs : Nat, assemble (.bstat fs) = if fs < 256 then some [.write 0 4 (0x00000011 ||| BitVec.ofNat 32 fs <<< 8)] else none) ∧
  (∀ fs : Nat, assemble (.bfschg fs) = if fs < 256 then some [.write 0 4 (0x00000012 ||| BitVec.ofNat 32 fs <<< 8)] else none) ∧
  (∀ b t : Nat, assemble (.afeed b t) = if b < 256 ∧ t < 256 then
    some [.write 0 4 (0x00000020 ||| BitVec.ofNat 32 b <<< 8 ||| BitVec.ofNat 32 t <<< 16)] else none)

/-! ### Frame codec -/

/-- R131: the five properties of the checksum of a byte sequence of at least three bytes. -/
def Obligations.ChecksumProperties : Prop :=
  ∀ f : List Byte, 3 ≤ f.length →
    ∃ c : Byte, checksum f = .ok c ∧ c.toNat < 0x80 ∧
      (∀ (g : List Byte), g.length = f.length → (∀ i, 1 ≤ i → i + 3 ≤ f.length → g[i]? = f[i]?) → checksum g = .ok c) ∧
      (∀ k : Nat, 0 < k → c = sevenBitComplement (sumBetweenMarkers f % (0x80 * k))) ∧
      (f.length = 3 → c = 0) ∧
      (sumBetweenMarkers f + c.toNat) % 0x80 = 0

/-- R132: CKSUM's word, and its effect on every staging buffer: the checksum in RESULT, or TooShort (code 13) below three
bytes; nothing else changes. -/
def Obligations.CksumWritesResultOnly : Prop :=
  EncodedExactly 0x10 (fun w i => w = 0x00000010 ∧ i = .cksum) ∧
  ∀ s : State, exec .cksum s = .next { s with result :=
    if s.flen.val < 3 then 0x0000D000
    else 0x00010000 ||| (sevenBitComplement (sumBetweenMarkers (s.fbuf.toList.take s.flen.val))).zeroExtend 32 }

/-- R134, R133, R106: BSTAT's words; it writes the nine bytes of the status frame, FLEN and RESULT, and nothing else. -/
def Obligations.BstatBuildsStatusFrame : Prop :=
  EncodedExactly 0x11 (fun w i => ∃ fs : Byte, w = 0x00000011 ||| fs.zeroExtend 32 <<< 8 ∧ i = .bstat fs) ∧
  ∀ (s : State) (fs : Byte),
    ∃ fbuf : Vector Byte 16,
      exec (.bstat fs) s = .next { s with
        fbuf := fbuf, flen := 9, result := 0x00010000 ||| (sevenBitComplement fs.toNat).zeroExtend 32 } ∧
      ∀ i : Fin 16, fbuf[i] =
        ([0xF0, 0x00, 0x00, 0x00, 0x00, fs, 0x00, sevenBitComplement fs.toNat, 0xF7] : List Byte).getD i.val s.fbuf[i]

/-- R136, R135, R107: BFSCHG's words; it writes the seven bytes of the footswitch-change frame, FLEN and RESULT, and nothing
else. -/
def Obligations.BfschgBuildsChangeFrame : Prop :=
  EncodedExactly 0x12 (fun w i => ∃ fs : Byte, w = 0x00000012 ||| fs.zeroExtend 32 <<< 8 ∧ i = .bfschg fs) ∧
  ∀ (s : State) (fs : Byte),
    ∃ fbuf : Vector Byte 16,
      exec (.bfschg fs) s = .next { s with
        fbuf := fbuf, flen := 7, result := 0x00010000 ||| (sevenBitComplement (2 + fs.toNat)).zeroExtend 32 } ∧
      ∀ i : Fin 16, fbuf[i] =
        ([0xF0, 0x00, 0x02, fs, 0x00, sevenBitComplement (2 + fs.toNat), 0xF7] : List Byte).getD i.val s.fbuf[i]

/-- R138, R137: LEDST's word; of a six-byte staging buffer it gives byte 3, or "none" unless bytes 1 and 2 are zero; of any
other length it is BadLength (code 12). RESULT alone changes, and on BadLength the error registers. -/
def Obligations.LedstExtractsStatus : Prop :=
  EncodedExactly 0x13 (fun w i => w = 0x00000013 ∧ i = .ledst) ∧
  ∀ s : State,
    (s.flen.val = 6 → exec .ledst s = .next { s with result :=
      if s.fbuf[1] = 0 ∧ s.fbuf[2] = 0 then 0x00010000 ||| (s.fbuf[3]).zeroExtend 32 else 0x00000000 }) ∧
    (s.flen.val ≠ 6 → exec .ledst s = .next { s with
      err := s.err ||| 0x00001000, lastErr := 12, result := 0x0000C000 })

/-- R139: what either builder returns is a frame, of its kind's length. -/
def Obligations.BuiltFramesAreFrames : Prop :=
  ∀ fs : Byte,
    (IsFrame Params.hw (buildStatus Params.hw fs) ∧ (buildStatus Params.hw fs).length = 9) ∧
    (IsFrame Params.hw (buildFsChange Params.hw fs) ∧ (buildFsChange Params.hw fs).length = 7)

/-- R140: the codec commands' effect on FBUF, FLEN and RESULT depends on FBUF, FLEN and the operand byte alone, as does
whether they fault: LEDST of another length than six records BadLength (code 12) in both states, and nothing else changes
ERR or LAST_ERR; they leave the session, the queues, the line and the timer as they were. -/
def Obligations.CodecCommandsArePure : Prop :=
  ∀ (i : Instr), i = .cksum ∨ i = .ledst ∨ (∃ fs, i = .bstat fs) ∨ (∃ fs, i = .bfschg fs) →
    ∀ s s' : State, s'.fbuf = s.fbuf → s'.flen = s.flen →
      ∃ t t' : State, exec i s = .next t ∧ exec i s' = .next t' ∧
        t'.fbuf = t.fbuf ∧ t'.flen = t.flen ∧ t'.result = t.result ∧
        s.SameSession t ∧ s.SameEnv t ∧ s'.SameSession t' ∧ s'.SameEnv t' ∧
        (if i = .ledst ∧ s.flen.val ≠ 6 then
          (t.err = s.err ||| 0x00001000 ∧ t.lastErr = 12) ∧ (t'.err = s'.err ||| 0x00001000 ∧ t'.lastErr = 12)
        else s.SameErrors t ∧ s'.SameErrors t')

/-! ### Incremental assembler -/

/-- R151, R152: the result of `Update` by the first check that applies, in the order InvalidStart, TooLong, Incomplete,
InvalidEnd, ChecksumErr. -/
def Obligations.UpdateReportsFirstFailingCheck : Prop :=
  ∀ (c : Params) (acc : List Byte) (b : Byte) (T : Nat), 3 ≤ T →
    update c acc b T =
      if (acc ++ [b]).head? ≠ some c.pStart then .invalid .invalidStart
      else if T ≤ acc.length then .invalid .tooLong
      else if acc.length + 1 < T then .incomplete (acc ++ [b])
      else if b ≠ c.pEnd then .invalid .invalidEnd
      else if acc[T - 2]? ≠ some (sevenBitComplement (sumBetweenMarkers (acc ++ [b]))) then .invalid .checksumErr
      else .complete (acc ++ [b])

/-- R154 item 2: `Complete` comes exactly of a frame of the target length, and carries it. -/
def Obligations.UpdateCompletesExactlyFrames : Prop :=
  ∀ (c : Params) (acc a : List Byte) (b : Byte) (T : Nat), 3 ≤ T →
    (update c acc b T = .complete a ↔ a = acc ++ [b] ∧ a.length = T ∧ IsFrame c a)

/-- R154 item 1: a frame fed byte by byte to a fresh accumulator is Incomplete at every shorter length, and Complete at its own. -/
def Obligations.FrameRoundTripsThroughAssembler : Prop :=
  ∀ (c : Params) (f : List Byte), IsFrame c f →
    ∀ (k : Nat) (h : k < f.length),
      update c (f.take k) f[k] f.length = if k + 1 < f.length then .incomplete (f.take (k + 1)) else .complete f

/-- R154 item 3: an accumulator that is fresh or was Incomplete never sees TooLong. -/
def Obligations.FreshAccumulatorNeverTooLong : Prop :=
  ∀ (c : Params) (acc : List Byte) (b b' : Byte) (T : Nat), 3 ≤ T →
    (acc = [] ∨ ∃ acc', update c acc' b' T = .incomplete acc) → update c acc b T ≠ .invalid .tooLong

/-- R155: AFEED's words; with a target of 3 to 16 it appends the byte where there is room, whatever the verdict, and writes
RESULT; with any other target it is BadLength (code 12), with nothing appended. -/
def Obligations.AfeedAppendsAndClassifies : Prop :=
  EncodedExactly 0x20 (fun w i => ∃ b t : Byte,
    w = 0x00000020 ||| b.zeroExtend 32 <<< 8 ||| t.zeroExtend 32 <<< 16 ∧ i = .afeed b t) ∧
  ∀ (s : State) (b t : Byte),
    (t.toNat < 3 ∨ 16 < t.toNat →
      exec (.afeed b t) s = .next { s with err := s.err ||| 0x00001000, lastErr := 12, result := 0x0000C000 }) ∧
    (3 ≤ t.toNat → t.toNat ≤ 16 →
      ∃ (fbuf : Vector Byte 16) (flen : Fin 17) (result : Word),
        exec (.afeed b t) s = .next { s with fbuf := fbuf, flen := flen, result := result } ∧
        (∀ i : Fin 16, fbuf[i] = if s.flen.val < t.toNat ∧ i.val = s.flen.val then b else s.fbuf[i]) ∧
        flen.val = (if s.flen.val < t.toNat then s.flen.val + 1 else s.flen.val) ∧
        (resultValue result).toNat = flen.val ∧ resultValid result = true ∧ result &&& 0xFFFE0C00 = 0 ∧
        (match update Params.hw (s.fbuf.toList.take s.flen.val) b t.toNat with
          | .incomplete _ => resultVerdict result = 0 ∧ resultReason result = 0
          | .complete _ => resultVerdict result = 1 ∧ resultReason result = 0
          | .invalid .invalidStart => resultVerdict result = 2 ∧ resultReason result = 1
          | .invalid .invalidEnd => resultVerdict result = 2 ∧ resultReason result = 2
          | .invalid .tooLong => resultVerdict result = 2 ∧ resultReason result = 3
          | .invalid .checksumErr => resultVerdict result = 2 ∧ resultReason result = 4))

/-! ### Queues -/

/-- R213: ENQ's word; it copies `FBUF[0..FLEN)` to the end of the send queue, or raises BadLength (code 12) for an empty
operand, or else TxQueueFull (code 9) where the queue holds five entries. -/
def Obligations.EnqQueuesStagingBytes : Prop :=
  EncodedExactly 0x02 (fun w i => w = 0x00000002 ∧ i = .enq) ∧
  ∀ s : State, s.txq.length ≤ 5 →
    (s.flen.val = 0 → exec .enq s = .next { s with
      err := s.err ||| 0x00001000, lastErr := 12, result := 0x0000C000 }) ∧
    (s.flen.val ≠ 0 → s.txq.length = 5 → exec .enq s = .next { s with
      err := s.err ||| 0x00000200, lastErr := 9, result := 0x00009000 }) ∧
    (s.flen.val ≠ 0 → s.txq.length < 5 → exec .enq s = .next { s with
      txq := s.txq ++ [s.fbuf.toList.take s.flen.val],
      result := 0x00010000 ||| BitVec.ofNat 32 (s.txq.length + 1) })

/-- R215: on every configuration, m ENQ commands with no TICK between them leave min(P_TXQ_CAP, k + m) entries, the first of
them kept in order; the remaining ones raise TxQueueFull. -/
def Obligations.EnqOverflowKeepsFirstEntries : Prop :=
  ∀ (c : Params) (s : State) (m : Nat), s.flen.val ≠ 0 → s.txq.length ≤ c.pTxqCap →
    ∃ t : State, execTimes c .enq m s = .next t ∧
      t.txq = s.txq ++ List.replicate (min m (c.pTxqCap - s.txq.length)) (s.fbuf.toList.take s.flen.val) ∧
      t.txq.length = min c.pTxqCap (s.txq.length + m) ∧
      (s.txq.length + m ≤ c.pTxqCap → s.SameErrors t) ∧
      (c.pTxqCap < s.txq.length + m → t.err = s.err ||| 0x00000200 ∧ t.lastErr = 9)

/-- R216: POP's word; it moves the oldest received frame to the staging buffer; an empty queue gives "none" and changes
nothing else. -/
def Obligations.PopMovesOldestFrame : Prop :=
  EncodedExactly 0x03 (fun w i => w = 0x00000003 ∧ i = .pop) ∧
  ∀ s : State,
    (s.rxq = [] → exec .pop s = .next { s with result := 0x00000000 }) ∧
    (∀ (f : List Byte) (rest : List (List Byte)), s.rxq = f :: rest → f.length ≤ 16 →
      ∃ (fbuf : Vector Byte 16) (flen : Fin 17),
        exec .pop s = .next { s with
          rxq := rest, fbuf := fbuf, flen := flen, result := 0x00010000 ||| BitVec.ofNat 32 f.length } ∧
        flen.val = f.length ∧ ∀ i : Fin 16, fbuf[i] = f.getD i.val s.fbuf[i])

/-- R217: from a good state a popped frame is a frame of six bytes, and LEDST of it raises nothing: it writes RESULT from the
frame's bytes, and nothing else changes. -/
def Obligations.PoppedFrameIsValidated : Prop :=
  ∀ (s : State) (f : List Byte) (rest : List (List Byte)), s.Good → s.rxq = f :: rest →
    ∃ t : State, exec .pop s = .next t ∧ t.fbuf.toList.take t.flen.val = f ∧ t.flen.val = 6 ∧ IsFrame Params.hw f ∧
      exec .ledst t = .next { t with
        result := if f.getD 1 0 = 0 ∧ f.getD 2 0 = 0 then 0x00010000 ||| (f.getD 3 0).zeroExtend 32 else 0x00000000 }

/-! ### Session steps -/

/-- R176: the Idle step: receiving first, then sending where the line is not busy, else quiescent. -/
def Obligations.IdleStepPrefersReceiving : Prop :=
  ∀ (c : Params) (m : Moment) (s : State), s.session = .idle →
    (s.line.rx ≠ [] → sessionStep c m s = .progress { s with session := .receiving [] }) ∧
    (∀ buf rest, s.line.rx = [] → s.txq = buf :: rest → m.busy = false →
      sessionStep c m s = .progress { s with txq := rest, session := .sending buf 0 }) ∧
    (s.line.rx = [] → s.txq = [] ∨ m.busy = true → sessionStep c m s = .quiescent)

/-- R177, R172: the Sending step hands the cursor's byte to the line, and goes on by the line's answer.
That a failed or a held byte counts as handed is log entry 10; that a write never accepted is a stop of this name is log
entry 5; a write that only a reset of the platform ends is log entry 12. -/
def Obligations.SendingStepWritesCursorByte : Prop :=
  ∀ (c : Params) (m : Moment) (s : State) (buf : List Byte) (cursor : Nat) (h : cursor < buf.length),
    s.session = .sending buf cursor →
    (m.write = .ok → sessionStep c m s = .progress { s with
      session := .waitingEcho buf cursor (s.readNow c),
      line := { s.line with handed := s.line.handed ++ [buf[cursor]] } }) ∧
    (m.write = .ioErr → sessionStep c m s = .progress { s with
      session := .idle, line := { s.line with handed := s.line.handed ++ [buf[cursor]] },
      err := s.err ||| 0x00000100, lastErr := 8 }) ∧
    (m.write = .never → sessionStep c m s = .stuck .writeNeverAccepted) ∧
    (m.write = .heldToReset → sessionStep c m s = .heldToReset { s with
      line := { s.line with handed := s.line.handed ++ [buf[cursor]] } })

/-- R178, R179: the WaitingEcho step with an item readable consumes it: an error, a byte that differs, the echo of the last
byte, the echo of another byte. -/
def Obligations.EchoStepVerifiesByte : Prop :=
  ∀ (c : Params) (m : Moment) (s : State) (buf : List Byte) (cursor : Nat) (t0 : Time) (rest : List RxItem)
    (h : cursor < buf.length), s.session = .waitingEcho buf cursor t0 →
    (s.line.rx = .ioErr :: rest → sessionStep c m s = .progress { s with
      session := .idle, line := { s.line with rx := rest }, err := s.err ||| 0x00000100, lastErr := 8 }) ∧
    (∀ v, s.line.rx = .byte v :: rest → v ≠ buf[cursor] → sessionStep c m s = .progress { s with
      session := .idle, line := { s.line with rx := rest }, err := s.err ||| 0x00000020, lastErr := 5 }) ∧
    (s.line.rx = .byte buf[cursor] :: rest → cursor + 1 = buf.length → sessionStep c m s = .progress { s with
      session := .waitingReply (s.readNow c), line := { s.line with rx := rest } }) ∧
    (s.line.rx = .byte buf[cursor] :: rest → cursor + 1 < buf.length → sessionStep c m s = .progress { s with
      session := .sending buf (cursor + 1), line := { s.line with rx := rest } })

/-- R180, R175: on every configuration, the WaitingEcho step with nothing readable times out exactly when more than
P_ECHO_TIMEOUT_US have elapsed, counted modulo 2 ^ P_TIMER_BITS; the defaults are 20 ms and 64 bits. -/
def Obligations.EchoStepTimesOutStrictly : Prop :=
  (Params.hw.pEchoTimeoutUs = 20000 ∧ Params.hw.pTimerBits = 64) ∧
  ∀ (c : Params) (m : Moment) (s : State) (buf : List Byte) (cursor : Nat) (t0 : Time),
    s.session = .waitingEcho buf cursor t0 → s.line.rx = [] →
    sessionStep c m s =
      if (c.pEchoTimeoutUs : Int) < ((s.now : Int) - (t0 : Int)) % (2 : Int) ^ c.pTimerBits then .progress { s with
        session := .idle, err := s.err ||| 0x00000040, lastErr := 6 }
      else .quiescent

/-- R181, R175: on every configuration, the WaitingReply step: readable goes to Receiving and consumes nothing; else it times
out exactly when more than P_REPLY_TIMEOUT_US have elapsed, modulo 2 ^ P_TIMER_BITS; the defaults are 100 ms and 64 bits. -/
def Obligations.ReplyStepReceivesOrTimesOut : Prop :=
  (Params.hw.pReplyTimeoutUs = 100000 ∧ Params.hw.pTimerBits = 64) ∧
  ∀ (c : Params) (m : Moment) (s : State) (t0 : Time), s.session = .waitingReply t0 →
    sessionStep c m s =
      if s.line.rx ≠ [] then .progress { s with session := .receiving [] }
      else if (c.pReplyTimeoutUs : Int) < ((s.now : Int) - (t0 : Int)) % (2 : Int) ^ c.pTimerBits then .progress { s with
        session := .idle, err := s.err ||| 0x00000080, lastErr := 7 }
      else .quiescent

/-- R279, R175: time waited counts modulo 2 ^ P_TIMER_BITS in both wait states: with nothing readable, a step after `waited`
microseconds times out exactly where that remainder is over the limit, so a wait of 2 ^ P_TIMER_BITS or more can hide a timeout,
and a shorter one cannot. -/
def Obligations.TimerWrapHidesWait : Prop :=
  ∀ (c : Params) (m : Moment) (s : State) (start waited : Nat), s.now = start + waited → s.line.rx = [] →
    (∀ buf cursor, s.session = .waitingEcho buf cursor (start % 2 ^ c.pTimerBits) →
      (sessionStep c m s = .quiescent ↔ waited % 2 ^ c.pTimerBits ≤ c.pEchoTimeoutUs) ∧
      (waited < 2 ^ c.pTimerBits → (sessionStep c m s = .quiescent ↔ waited ≤ c.pEchoTimeoutUs))) ∧
    (s.session = .waitingReply (start % 2 ^ c.pTimerBits) →
      (sessionStep c m s = .quiescent ↔ waited % 2 ^ c.pTimerBits ≤ c.pReplyTimeoutUs) ∧
      (waited < 2 ^ c.pTimerBits → (sessionStep c m s = .quiescent ↔ waited ≤ c.pReplyTimeoutUs)))

/-- R182, R183: the Receiving step is quiescent with nothing readable; an item readable is consumed: an error, and a byte by
the verdict of `Update`. -/
def Obligations.ReceivingStepClassifiesByte : Prop :=
  ∀ (m : Moment) (s : State) (acc : List Byte) (rest : List RxItem), s.session = .receiving acc →
    (s.line.rx = [] → sessionStep Params.hw m s = .quiescent) ∧
    (s.line.rx = .ioErr :: rest → sessionStep Params.hw m s = .progress { s with
      session := .idle, line := { s.line with rx := rest }, err := s.err ||| 0x00000100, lastErr := 8 }) ∧
    ∀ v, s.line.rx = .byte v :: rest →
      (∀ acc', update Params.hw acc v 6 = .incomplete acc' → sessionStep Params.hw m s = .progress { s with
        session := .receiving acc', line := { s.line with rx := rest } }) ∧
      (∀ f, update Params.hw acc v 6 = .complete f → s.rxq.length < 2 → sessionStep Params.hw m s = .progress { s with
        session := .idle, line := { s.line with rx := rest }, rxq := s.rxq ++ [f] }) ∧
      (∀ f, update Params.hw acc v 6 = .complete f → 2 ≤ s.rxq.length → sessionStep Params.hw m s = .progress { s with
        session := .idle, line := { s.line with rx := rest }, err := s.err ||| 0x00000400, lastErr := 10 }) ∧
      (∀ (r : InvalidReason) (n : Fin 5), update Params.hw acc v 6 = .invalid r →
        n = (match r with | .invalidStart => 1 | .invalidEnd => 2 | .tooLong => 3 | .checksumErr => 4) →
        sessionStep Params.hw m s = .progress { s with
          session := .idle, line := { s.line with rx := rest },
          err := s.err ||| BitVec.ofNat 32 (2 ^ n.val), lastErr := BitVec.ofNat 4 n.val })

/-- R184: with nothing readable, Receiving is quiescent whatever the time.
The line's behaviour is a script of moments in the state, the model's form (log entries 1 to 3). -/
def Obligations.ReceivingNeverTimesOut : Prop :=
  ∀ (s : State) (acc : List Byte), s.session = .receiving acc → s.line.SilentNext →
    ∃ t : State, exec .tick s = .next t ∧ t.session = .receiving acc ∧ s.SameErrors t ∧ s.SameStaging t ∧
      t.txq = s.txq ∧ t.rxq = s.rxq ∧ t.result = 0x00010000

/-- R235, R185, R238: a session step that raises an error raises one, goes to Idle, and changes nothing else but the item it
took from the line or the byte it handed to it: the send queue, the receive queue, the staging buffer and RESULT stay.
Whether a step raises an error, also one recorded before, is seen by the same step from the state with no error recorded.
That a failed byte counts as handed is log entry 10. -/
def Obligations.SessionErrorsReturnToIdle : Prop :=
  ∀ (c : Params) (m : Moment) (s t : State), sessionStep c m s = .progress t →
    ∃ clean : State, sessionStep c m { s with err := 0, lastErr := 0 } = .progress clean ∧
      (clean.lastErr = 0 → clean.err = 0 ∧ s.SameErrors t) ∧
      (clean.lastErr ≠ 0 → ∃ (e : Err) (line : Line), clean.err = e.bit ∧ clean.lastErr = e.code ∧
        t = { s with session := .idle, line := line, err := s.err ||| e.bit, lastErr := e.code } ∧
        (line = s.line ∨ (∃ item, s.line = { line with rx := item :: line.rx }) ∨
          ∃ buf cursor v, s.session = .sending buf cursor ∧ buf[cursor]? = some v ∧
            line = { s.line with handed := s.line.handed ++ [v] }))

/-- R187, R176: a frame leaves the send queue only by the Idle step, from the queue's head; Sending is entered only so, at the
first byte, or from WaitingEcho of the byte before in the same frame; WaitingEcho only from Sending the same byte; WaitingReply
only from WaitingEcho of the last byte. -/
def Obligations.SendsStartFromIdleOnly : Prop :=
  ∀ (c : Params) (m : Moment) (s t : State), sessionStep c m s = .progress t →
    (t.txq = s.txq ∨ (s.session = .idle ∧ s.line.rx = [] ∧ m.busy = false ∧
      ∃ buf, s.txq = buf :: t.txq ∧ t.session = .sending buf 0)) ∧
    (∀ buf cursor, t.session = .sending buf cursor →
      (s.session = .idle ∧ cursor = 0 ∧ s.txq = buf :: t.txq) ∨
      (t.txq = s.txq ∧ ∃ k t0, cursor = k + 1 ∧ s.session = .waitingEcho buf k t0)) ∧
    (∀ buf cursor t0, t.session = .waitingEcho buf cursor t0 → s.session = .sending buf cursor) ∧
    (∀ t0, t.session = .waitingReply t0 → ∃ buf k t1, s.session = .waitingEcho buf k t1 ∧ k + 1 = buf.length)

/-- R38, R183: the receive queue changes only by a completed frame of P_RX_LEN bytes pushed at its end, with room for it. -/
def Obligations.OnlyFramesEnterReceiveQueue : Prop :=
  ∀ (c : Params) (m : Moment) (s t : State), 3 ≤ c.pRxLen → sessionStep c m s = .progress t → t.rxq ≠ s.rxq →
    ∃ f, t.rxq = s.rxq ++ [f] ∧ f.length = c.pRxLen ∧ IsFrame c f ∧ s.rxq.length < c.pRxqCap ∧ t.session = .idle

/-! ### TICK -/

/-- R190: TICK's word; and on every configuration and every line that neither floods nor resets the block, TICK completes in
a state exactly where the loop of R190's pseudocode ends in it, with no bound on its steps.
The line's behaviour is a script of moments in the state, the model's form (log entries 1 to 3); the re-poll's wait moves the
timer by exactly the delay, the model's choice (log entry 20). -/
def Obligations.TickRunsStepsUntilQuiescent : Prop :=
  EncodedExactly 0x01 (fun w i => w = 0x00000001 ∧ i = .tick) ∧
  (∀ s : State, exec .tick s = runTick Params.hw s) ∧
  ∀ (c : Params) (s t : State), s.line.NoReset → s.line.ending = .quiet →
    (runTick c s = .next t ↔ TickRun c false false s t)

/-- R191: a TICK ends on every line that answers every write and does not supply bytes for ever.
`Line.Live` says it of the model's script (log entries 1 and 3). -/
def Obligations.TickEndsOnLiveLine : Prop :=
  ∀ s : State, s.Good → s.line.Live → ∃ t : State, exec .tick s = .next t

/-- R190: RESULT of a TICK that no reset abandons: VALUE is 1 if any step made progress, which is whether the first one did,
else 0; a TICK whose first step is quiescent changes nothing else of the block.
The script is the model's form (log entries 1 and 2). -/
def Obligations.TickReportsProgress : Prop :=
  ∀ s t : State, s.line.NoReset → exec .tick s = .next t →
    (sessionStep Params.hw s.line.nextMoment s.beginStep = .quiescent → t = { s.beginStep with result := 0x00010000 }) ∧
    (sessionStep Params.hw s.line.nextMoment s.beginStep ≠ .quiescent → t.result = 0x00010001)

/-- R190, R177: a TICK ends only at a quiescent step: nothing is left readable, the session is not Sending, and it is Idle
with a queued frame only where the line was busy.
The script is the model's form (log entries 1 and 2). -/
def Obligations.TickEndsQuiescent : Prop :=
  ∀ s t : State, s.line.NoReset → exec .tick s = .next t →
    t.line.rx = [] ∧ (∀ buf cursor, t.session ≠ .sending buf cursor) ∧
    (t.session = .idle → t.txq ≠ [] → ∃ m ∈ s.line.script, m.busy = true)

/-- R42, R55: a TICK that no reset abandons leaves FBUF and FLEN, and the host's accesses, as they were. -/
def Obligations.TickKeepsStagingBuffer : Prop :=
  ∀ s t : State, s.line.NoReset → exec .tick s = .next t →
    s.SameStaging t ∧ t.inputs = s.inputs ∧ t.reads = s.reads

/-- R192, R34: no command but TICK runs a session step: the session, the line and the timer are as before. -/
def Obligations.OnlyTickRunsSession : Prop :=
  ∀ (i : Instr) (s : State), i ≠ .tick → ∃ t : State, exec i s = .next t ∧ t.session = s.session ∧ s.SameEnv t

/-- R48: where a command changes LAST_ERR, it is to a code of R231 that sets an ERR bit, and that bit is set. -/
def Obligations.LastErrNamesSetBit : Prop :=
  ∀ (i : Instr) (s t : State), s.line.NoReset → exec i s = .next t → t.lastErr ≠ s.lastErr →
    1 ≤ t.lastErr.toNat ∧ t.lastErr.toNat ≤ 12 ∧ t.err.getLsbD t.lastErr.toNat = true

/-- R172: a write that the line never accepts holds the TICK for ever, at whatever step of it the write comes: the session is
in Sending there, after any number of progress steps.
That a held block is a fault of this name is the model's choice (log entry 5). -/
def Obligations.UnacceptedWriteHoldsTick : Prop :=
  ∀ (s u : State) (buf : List Byte) (cursor : Nat), TickReaches Params.hw s u →
    u.session = .sending buf cursor → cursor < buf.length →
    u.line.flooding = false → u.line.nextMoment.reset = false → u.line.nextMoment.write = .never →
    exec .tick s = .fault .writeNeverAccepted

/-- R191, R241: on a line that never stops supplying items and answers every write, by accepting or by failing it, a TICK does
not end.
That a TICK without an end is a fault of this name is the model's choice (log entry 4). -/
def Obligations.FloodingLineHoldsTick : Prop :=
  ∀ s : State, s.Good → s.line.ending = .floods →
    (∀ m ∈ s.line.script, m.reset = false ∧ m.write ≠ .never ∧ m.write ≠ .heldToReset ∧ m.arrive ≠ []) →
    exec .tick s = .fault .tickNeverEnds

/-- R260, R261: a reset of the platform before any session step of a TICK, or while a write of it is held, abandons the TICK:
the block's state is that of R60, and the line and the timer are as they were.
Where in a TICK a reset can fall is the model's choice (log entry 12), as is that a held byte counts as handed (log entry 10). -/
def Obligations.ResetAbandonsTick : Prop :=
  ∀ s u : State, TickReaches Params.hw s u → u.line.flooding = false →
    (u.line.nextMoment.reset = true → exec .tick s = .next { State.reset with
      line := u.beginStep.line, now := u.beginStep.now, inputs := s.inputs, reads := s.reads }) ∧
    (∀ (buf : List Byte) (cursor : Nat) (h : cursor < buf.length), u.session = .sending buf cursor →
      u.line.nextMoment.reset = false → u.line.nextMoment.write = .heldToReset →
      exec .tick s = .next { State.reset with
        line := { u.beginStep.line with handed := u.line.handed ++ [buf[cursor]] },
        now := u.beginStep.now, inputs := s.inputs, reads := s.reads })

/-- R176 to R179, R70, R214: on a line that echoes each byte, one TICK from Idle sends the oldest queued entry whole, byte by
byte in index order, whatever its bytes, and ends waiting for the reply, with no error.
The echoing line is a script of the model's form, on which no time passes (log entries 1 to 3). -/
def Obligations.EchoedEntryIsSentWhole : Prop :=
  ∀ (s : State) (buf : List Byte) (rest : List (List Byte)),
    s.session = .idle → s.txq = buf :: rest → buf ≠ [] → s.line.rx = [] → s.line.script = echoScript buf →
    s.line.ending = .quiet →
    ∃ t : State, exec .tick s = .next t ∧ t.session = .waitingReply (s.readNow Params.hw) ∧ t.txq = rest ∧ t.rxq = s.rxq ∧
      t.line.handed = s.line.handed ++ buf ∧ t.line.rx = [] ∧ s.SameErrors t ∧ s.SameStaging t ∧ t.result = 0x00010001

/-- R176, R182, R183, R154: a frame of six bytes that waits on the line reaches the receive queue by one TICK from Idle, and
is dropped with RxQueueFull (code 10) where the queue holds two.
The line is of the model's form (log entries 1 and 3). -/
def Obligations.WaitingFrameIsReceived : Prop :=
  ∀ (s : State) (f : List Byte),
    s.session = .idle → s.txq = [] → s.line = { rx := f.map RxItem.byte, handed := s.line.handed } → f.length = 6 →
    IsFrame Params.hw f →
    ∃ t : State, exec .tick s = .next t ∧ t.session = .idle ∧ t.line.rx = [] ∧ t.result = 0x00010001 ∧
      (s.rxq.length < 2 → t.rxq = s.rxq ++ [f] ∧ s.SameErrors t) ∧
      (2 ≤ s.rxq.length → t.rxq = s.rxq ∧ t.err = s.err ||| 0x00000400 ∧ t.lastErr = 10)

/-- R153, R176, R182: bytes other than START that wait on the line are discarded one at a time, each raising InvalidStart
(code 1), until a START byte begins a new accumulator. On every configuration two progress steps from Idle discard the
oldest one and no more, whatever waits behind it or arrives meanwhile; one TICK discards a run of them and puts nothing in
the receive queue; and where a frame follows the run, that TICK receives the frame.
The line is of the model's form (log entries 1 to 3). -/
def Obligations.StrayBytesAreDiscarded : Prop :=
  (∀ (c : Params) (s : State) (b : Byte) (rest : List RxItem), s.session = .idle → s.line.rx = .byte b :: rest →
    b ≠ c.pStart → s.line.nextMoment.reset = false → s.beginStep.line.nextMoment.reset = false →
    TickReaches c s { s.beginStep.beginStep with
      line := { s.beginStep.beginStep.line with rx := rest ++ s.line.nextMoment.arrive ++ s.beginStep.line.nextMoment.arrive },
      err := s.err ||| 0x00000002, lastErr := 1 }) ∧
  ∀ (s : State) (bs : List Byte), bs ≠ [] → (∀ b ∈ bs, b ≠ 0xF0) → s.session = .idle → s.txq = [] →
    (s.line = { rx := bs.map RxItem.byte, handed := s.line.handed } →
      ∃ t : State, exec .tick s = .next t ∧ t.session = .idle ∧ t.line.rx = [] ∧ t.rxq = s.rxq ∧
        t.err = s.err ||| 0x00000002 ∧ t.lastErr = 1 ∧ t.result = 0x00010001) ∧
    (∀ f : List Byte, f.length = 6 → IsFrame Params.hw f → s.rxq.length < 2 →
      s.line = { rx := (bs ++ f).map RxItem.byte, handed := s.line.handed } →
      ∃ t : State, exec .tick s = .next t ∧ t.session = .idle ∧ t.line.rx = [] ∧ t.rxq = s.rxq ++ [f] ∧
        t.err = s.err ||| 0x00000002 ∧ t.lastErr = 1 ∧ t.result = 0x00010001)

/-- R190 with P_REPOLL true (D13): at the first quiescent step TICK waits P_REPOLL_DELAY_US and steps once more; where that
step is quiescent too, it ends without progress, and nothing of the block but RESULT has changed.
The timer's advance by exactly the delay is the model's choice (log entry 20). -/
def Obligations.RepollWaitsAndStepsOnceMore : Prop :=
  ∀ (c : Params) (s : State), c.pRepoll = true → s.line.ending = .quiet →
    s.line.nextMoment.reset = false → (s.beginStep.wait c.pRepollDelayUs).line.nextMoment.reset = false →
    sessionStep c s.line.nextMoment s.beginStep = .quiescent →
    sessionStep c (s.beginStep.wait c.pRepollDelayUs).line.nextMoment (s.beginStep.wait c.pRepollDelayUs).beginStep
      = .quiescent →
    runTick c s = .next { s with
      line := (s.beginStep.wait c.pRepollDelayUs).beginStep.line,
      now := s.now + s.line.nextMoment.elapse + c.pRepollDelayUs
        + (s.beginStep.wait c.pRepollDelayUs).line.nextMoment.elapse,
      result := 0x00010000 }

/-! ### Reset, and the invariant -/

/-- R60, R260, R261: the platform's reset puts the block in the state of R60 and does not reset the line or the timer.
The reset is an input of the model's form (log entries 7 and 12). -/
def Obligations.PlatformResetRestoresBlock : Prop :=
  ∀ (s : State) (rest : List Input), s.inputs = .platformReset :: rest →
    ∃ t : State, step s = .next t ∧ t.session = .idle ∧ t.txq = [] ∧ t.rxq = [] ∧ (∀ i : Fin 16, t.fbuf[i] = 0) ∧
      t.flen = 0 ∧ t.result = 0 ∧ t.err = 0 ∧ t.lastErr = 0 ∧ t.status = 0 ∧
      t.line = s.line ∧ t.now = s.now ∧ t.inputs = rest ∧ t.reads = s.reads

/-- R60: the state after reset. -/
def Obligations.ResetStateIsAsSpecified : Prop :=
  State.reset.session = .idle ∧ State.reset.txq = [] ∧ State.reset.rxq = [] ∧ (∀ i : Fin 16, State.reset.fbuf[i] = 0) ∧
    State.reset.flen = 0 ∧ State.reset.result = 0 ∧ State.reset.err = 0 ∧ State.reset.lastErr = 0 ∧ State.reset.status = 0

/-- The invariant holds after reset. -/
def Obligations.ResetStateIsGood : Prop := State.reset.Good

/-- R33, R36, R37, R38, R44, R46, R48, R217: every step keeps the invariant, on every configuration that R6 admits; the default
one is `step`. -/
def Obligations.StepKeepsGood : Prop :=
  (∀ s t : State, s.Good → step s = .next t → t.Good) ∧
  ∀ (c : Params) (s t : State), c.valid = true → s.GoodOn c → stepOn c s = .next t → t.GoodOn c
end

