-- ==== Sys2Proof/Laws/Config.lean ====
section
/-! SUPPORT. The values of R6's parameters on this hardware. -/

namespace Sys2Proof

@[simp] theorem Params.hw_pStart : Params.hw.pStart = 0xF0 := rfl
@[simp] theorem Params.hw_pEnd : Params.hw.pEnd = 0xF7 := rfl
@[simp] theorem Params.hw_pRxLen : Params.hw.pRxLen = 6 := rfl
@[simp] theorem Params.hw_pStatusLen : Params.hw.pStatusLen = 9 := rfl
@[simp] theorem Params.hw_pFschgLen : Params.hw.pFschgLen = 7 := rfl
@[simp] theorem Params.hw_pTxqCap : Params.hw.pTxqCap = 5 := rfl
@[simp] theorem Params.hw_pRxqCap : Params.hw.pRxqCap = 2 := rfl
@[simp] theorem Params.hw_pEntryMax : Params.hw.pEntryMax = 16 := rfl
@[simp] theorem Params.hw_pEchoTimeoutUs : Params.hw.pEchoTimeoutUs = 20000 := rfl
@[simp] theorem Params.hw_pReplyTimeoutUs : Params.hw.pReplyTimeoutUs = 100000 := rfl
@[simp] theorem Params.hw_pTimerBits : Params.hw.pTimerBits = 64 := rfl
@[simp] theorem Params.hw_timerModulus : Params.hw.timerModulus = 2 ^ 64 := rfl
@[simp] theorem Params.hw_pRepoll : Params.hw.pRepoll = false := rfl

/-- R8: the default re-poll delay is twice a byte time, 320 microseconds. -/
@[simp] theorem Params.hw_pRepollDelayUs : Params.hw.pRepollDelayUs = 320 := by decide

/-- The hardware's parameters meet R6's constraints. -/
theorem Params.hw_valid : Params.hw.valid = true := by decide

end Sys2Proof
end

