-- ==== Sys2Proof/Laws/Codec.lean ====
section
/-! SUPPORT. The checksum and the frame builders in closed form. -/

namespace Sys2Proof.Machine

theorem checksum_of_short (f : List Byte) (h : f.length < 3) : checksum f = .tooShort := by
  simp [checksum, h]

/-- The payload's sum, index by index (R130). -/
theorem payloadSum_eq (f : List Byte) : payloadSum f = sumBetweenMarkers f := by
  unfold payloadSum sumBetweenMarkers
  have key : ∀ (g : List Byte) (n : Nat),
      ((g.take n).map BitVec.toNat).sum = ∑ i ∈ Finset.range n, (g.getD i 0).toNat := by
    intro g n
    induction n generalizing g with
    | zero => simp
    | succ n ih =>
      cases g with
      | nil => simp
      | cons a g => simp only [List.take_succ_cons, List.map_cons, List.sum_cons, ih, Finset.sum_range_succ']; simp [add_comm]
  rw [key]
  refine Finset.sum_congr rfl fun i _ => ?_
  simp [List.getD_eq_getElem?_getD]

theorem checksum_of_frame_length (f : List Byte) (h : 3 ≤ f.length) :
    checksum f = .ok (sevenBitComplement (sumBetweenMarkers f)) := by
  simp [checksum, Nat.not_lt.mpr h, payloadSum_eq, sevenBitComplement]

theorem sevenBitComplement_lt (n : Nat) : (sevenBitComplement n).toNat < 0x80 := by
  simp [sevenBitComplement]; omega

theorem sevenBitComplement_add (n : Nat) : (n + (sevenBitComplement n).toNat) % 0x80 = 0 := by
  simp [sevenBitComplement]; omega

theorem buildStatus_eq (fs : Byte) :
    buildStatus Params.hw fs = [0xF0, 0, 0, 0, 0, fs, 0, sevenBitComplement fs.toNat, 0xF7] := by
  simp [buildStatus, sealFrame, fitPayload, checksum, payloadSum, sevenBitComplement]

theorem buildFsChange_eq (fs : Byte) :
    buildFsChange Params.hw fs = [0xF0, 0, 2, fs, 0, sevenBitComplement (2 + fs.toNat), 0xF7] := by
  simp [buildFsChange, sealFrame, fitPayload, checksum, payloadSum, sevenBitComplement]

end Sys2Proof.Machine
end

