-- ==== Sys2Proof/Laws/Assembler.lean ====
section
/-! SUPPORT. What each verdict of `Update` says of the accumulator and the byte. -/

namespace Sys2Proof.Machine

/-- Everything `Update` can answer, with what it then has checked (R151). -/
theorem update_cases (c : Params) (acc : List Byte) (b : Byte) (T : Nat) :
    (update c acc b T = .invalid .invalidStart) ∨
    (update c acc b T = .invalid .tooLong ∧ T ≤ acc.length) ∨
    (update c acc b T = .incomplete (acc ++ [b]) ∧ acc.length + 1 < T ∧ (acc ++ [b]).head? = some c.pStart) ∨
    (update c acc b T = .invalid .invalidEnd ∧ acc.length + 1 = T) ∨
    (update c acc b T = .invalid .checksumErr ∧ acc.length + 1 = T) ∨
    (update c acc b T = .complete (acc ++ [b]) ∧ acc.length + 1 = T ∧ (acc ++ [b]).head? = some c.pStart ∧ b = c.pEnd ∧
      checksum (acc ++ [b]) = .ok ((acc ++ [b]).getD (T - 2) 0)) := by
  simp only [update]
  have last : ∀ h : acc.length + 1 = T, (acc ++ [b])[T - 1]? = some b := by rintro rfl; simp
  split_ifs with h1 h2 h3 h4 h5 h6
  · exact .inl rfl
  · exact .inr (.inl ⟨rfl, h1⟩)
  · exact .inl rfl
  · exact .inr (.inr (.inl ⟨rfl, by simpa using h4, not_not.mp h3⟩))
  all_goals have hT : acc.length + 1 = T := by simp only [List.length_append, List.length_singleton] at h4; omega
  · exact .inr (.inr (.inr (.inl ⟨rfl, hT⟩)))
  · exact .inr (.inr (.inr (.inr (.inl ⟨rfl, hT⟩))))
  · rw [last hT, not_not] at h5
    exact .inr (.inr (.inr (.inr (.inr ⟨rfl, hT, not_not.mp h3, Option.some.inj h5, not_not.mp h6⟩))))

end Sys2Proof.Machine
end

