-- ==== Sys2Proof/Laws/Word.lean ====
section
/-! SUPPORT. What the fields of a 32-bit word placed with `place` read as. -/

namespace Sys2Proof

theorem getLsbD_place {n : Nat} (v : BitVec n) (lo i : Nat) :
    (place v lo).getLsbD i = (decide (i < 32) && decide (lo ≤ i) && v.getLsbD (i - lo)) := by
  simp only [place, BitVec.getLsbD_shiftLeft, BitVec.getLsbD_setWidth]
  by_cases h : lo ≤ i <;> by_cases h' : i < 32 <;> simp [h, h', Nat.not_lt.mpr, Nat.not_le.mp]
  omega

/-- A field reads back as it was placed. -/
theorem extract_place_self {n : Nat} (v : BitVec n) (lo : Nat) (h : lo + n ≤ 32) : (place v lo).extractLsb' lo n = v := by
  ext i hi
  rw [BitVec.getElem_extractLsb', getLsbD_place]
  simp [show lo + i < 32 by omega, BitVec.getLsbD_eq_getElem hi]

/-- A field that lies above what is read adds nothing. -/
theorem extract_place_above {n : Nat} (v : BitVec n) (lo at' m : Nat) (h : at' + m ≤ lo) :
    (place v lo).extractLsb' at' m = 0 := by
  ext i hi
  rw [BitVec.getElem_extractLsb', getLsbD_place]
  simp
  omega

/-- A field that lies below what is read adds nothing. -/
theorem extract_place_below {n : Nat} (v : BitVec n) (lo at' m : Nat) (h : lo + n ≤ at') :
    (place v lo).extractLsb' at' m = 0 := by
  ext i hi
  rw [BitVec.getElem_extractLsb', getLsbD_place]
  simp
  intros
  exact BitVec.getLsbD_of_ge _ _ (by omega)

end Sys2Proof
end

