-- ==== Sys2Proof/Laws/Decode.lean ====
section
/-! SUPPORT. The fields of a command word, and what selecting a row says of them. -/

namespace Sys2Proof

@[simp] theorem fieldOpc_wordOf (o a b : Byte) : fieldOpc (wordOf o a b) = o := by
  simp [fieldOpc, wordOf, BitVec.extractLsb'_or, extract_place_self, extract_place_above]

@[simp] theorem fieldA_wordOf (o a b : Byte) : fieldA (wordOf o a b) = a := by
  simp [fieldA, wordOf, BitVec.extractLsb'_or, extract_place_self, extract_place_above, extract_place_below]

@[simp] theorem fieldB_wordOf (o a b : Byte) : fieldB (wordOf o a b) = b := by
  simp [fieldB, wordOf, BitVec.extractLsb'_or, extract_place_self, extract_place_below]

@[simp] theorem fieldReserved_wordOf (o a b : Byte) : fieldReserved (wordOf o a b) = 0 := by
  simp [fieldReserved, wordOf, BitVec.extractLsb'_or, extract_place_below]

/-- A word is its four fields (R100). -/
theorem word_eq_iff_fields (w v : Word) :
    w = v ↔ fieldOpc w = fieldOpc v ∧ fieldA w = fieldA v ∧ fieldB w = fieldB v ∧ fieldReserved w = fieldReserved v := by
  constructor
  · rintro rfl; exact ⟨rfl, rfl, rfl, rfl⟩
  · rintro ⟨h0, h1, h2, h3⟩
    ext i h
    have bit : ∀ (lo : Nat), w.extractLsb' lo 8 = v.extractLsb' lo 8 → lo ≤ i → i < lo + 8 → w[i] = v[i] := by
      intro lo he h1 h2
      have := congrArg (fun x => x.getLsbD (i - lo)) he
      simpa [show i - lo < 8 by omega, show lo + (i - lo) = i by omega, BitVec.getLsbD_eq_getElem h] using this
    rcases Nat.lt_or_ge i 8 with g | g
    · exact bit 0 h0 (by omega) (by omega)
    · rcases Nat.lt_or_ge i 16 with g | g
      · exact bit 8 h1 (by omega) (by omega)
      · rcases Nat.lt_or_ge i 24 with g | g
        · exact bit 16 h2 (by omega) (by omega)
        · exact bit 24 h3 (by omega) (by omega)

/-- A word whose reserved field is 0 is the word of its other fields. -/
theorem wordOf_fields (w : Word) (h : fieldReserved w = 0) : wordOf (fieldOpc w) (fieldA w) (fieldB w) = w := by
  rw [word_eq_iff_fields]; simp [h]

/-- Selecting a row is selecting it in each field. -/
theorem selects_iff_fields (r : OpcodeRow) (w : Word) :
    r.selects w = true ↔
      fieldOpc w &&& fieldOpc r.mask = fieldOpc r.matchBits ∧ fieldA w &&& fieldA r.mask = fieldA r.matchBits ∧
      fieldB w &&& fieldB r.mask = fieldB r.matchBits ∧ fieldReserved w &&& fieldReserved r.mask = fieldReserved r.matchBits := by
  simp only [OpcodeRow.selects, beq_iff_eq, word_eq_iff_fields]
  simp only [fieldOpc, fieldA, fieldB, fieldReserved, BitVec.extractLsb'_and]

end Sys2Proof
end

