-- ==== Sys2Proof/Laws/Flags.lean ====
section
/-! SUPPORT. The fields of RESULT and STATUS, and what the ERR operations do bit by bit. -/

namespace Sys2Proof.Machine

@[simp] theorem resultValue_resultWord (v : Byte) (d : BitVec 2) (r : BitVec 4) (b : Bool) :
    resultValue (resultWord v d r b) = v := by
  simp [resultValue, resultWord, BitVec.extractLsb'_or, extract_place_self, extract_place_above]

@[simp] theorem resultVerdict_resultWord (v : Byte) (d : BitVec 2) (r : BitVec 4) (b : Bool) :
    resultVerdict (resultWord v d r b) = d := by
  simp [resultVerdict, resultWord, BitVec.extractLsb'_or, extract_place_self, extract_place_above, extract_place_below]

@[simp] theorem resultReason_resultWord (v : Byte) (d : BitVec 2) (r : BitVec 4) (b : Bool) :
    resultReason (resultWord v d r b) = r := by
  simp [resultReason, resultWord, BitVec.extractLsb'_or, extract_place_self, extract_place_above, extract_place_below]

@[simp] theorem resultValid_resultWord (v : Byte) (d : BitVec 2) (r : BitVec 4) (b : Bool) :
    resultValid (resultWord v d r b) = b := by
  simp only [resultValid, resultWord, BitVec.getLsbD_or, getLsbD_place]
  simp

/-- The reserved bits of RESULT are 0 in every word a command writes (R44). -/
theorem resultWord_reserved (v : Byte) (d : BitVec 2) (r : BitVec 4) (b : Bool) :
    resultWord v d r b &&& 0xFFFE0C00 = 0 := by
  ext i h
  rw [BitVec.getElem_and, ← BitVec.getLsbD_eq_getElem h, ← BitVec.getLsbD_eq_getElem h]
  simp only [resultWord, BitVec.getLsbD_or, getLsbD_place]
  interval_cases i <;> simp

theorem resultSome_eq (v : Byte) : resultSome v = 0x00010000 ||| v.zeroExtend 32 := by
  ext i h
  rw [← BitVec.getLsbD_eq_getElem h, ← BitVec.getLsbD_eq_getElem h]
  simp only [resultSome, resultWord, BitVec.getLsbD_or, getLsbD_place, BitVec.getLsbD_setWidth]
  interval_cases i <;> simp

/-! ### The codes and bits of the errors as numerals (R46, R231) -/

@[simp] theorem Err.code_invalidStart : Err.invalidStart.code = 1 := rfl
@[simp] theorem Err.bit_invalidStart : Err.invalidStart.bit = 0x00000002 := by decide
@[simp] theorem Err.code_invalidEnd : Err.invalidEnd.code = 2 := rfl
@[simp] theorem Err.bit_invalidEnd : Err.invalidEnd.bit = 0x00000004 := by decide
@[simp] theorem Err.code_tooLong : Err.tooLong.code = 3 := rfl
@[simp] theorem Err.bit_tooLong : Err.tooLong.bit = 0x00000008 := by decide
@[simp] theorem Err.code_checksumErr : Err.checksumErr.code = 4 := rfl
@[simp] theorem Err.bit_checksumErr : Err.checksumErr.bit = 0x00000010 := by decide
@[simp] theorem Err.code_echoMismatch : Err.echoMismatch.code = 5 := rfl
@[simp] theorem Err.bit_echoMismatch : Err.echoMismatch.bit = 0x00000020 := by decide
@[simp] theorem Err.code_echoTimeout : Err.echoTimeout.code = 6 := rfl
@[simp] theorem Err.bit_echoTimeout : Err.echoTimeout.bit = 0x00000040 := by decide
@[simp] theorem Err.code_replyTimeout : Err.replyTimeout.code = 7 := rfl
@[simp] theorem Err.bit_replyTimeout : Err.replyTimeout.bit = 0x00000080 := by decide
@[simp] theorem Err.code_ioError : Err.ioError.code = 8 := rfl
@[simp] theorem Err.bit_ioError : Err.ioError.bit = 0x00000100 := by decide
@[simp] theorem Err.code_txQueueFull : Err.txQueueFull.code = 9 := rfl
@[simp] theorem Err.bit_txQueueFull : Err.txQueueFull.bit = 0x00000200 := by decide
@[simp] theorem Err.code_rxQueueFull : Err.rxQueueFull.code = 10 := rfl
@[simp] theorem Err.bit_rxQueueFull : Err.rxQueueFull.bit = 0x00000400 := by decide
@[simp] theorem Err.code_badCommand : Err.badCommand.code = 11 := rfl
@[simp] theorem Err.bit_badCommand : Err.badCommand.bit = 0x00000800 := by decide
@[simp] theorem Err.code_badLength : Err.badLength.code = 12 := rfl
@[simp] theorem Err.bit_badLength : Err.badLength.bit = 0x00001000 := by decide

@[simp] theorem resultFailed_badCommand : resultFailed 11#4 = 0x0000B000#32 := by decide
@[simp] theorem resultFailed_badLength : resultFailed 12#4 = 0x0000C000#32 := by decide
@[simp] theorem resultFailed_tooShort : resultFailed tooShortCode = 0x0000D000#32 := by decide
@[simp] theorem resultFailed_txQueueFull : resultFailed 9#4 = 0x00009000#32 := by decide
theorem resultNone_eq : resultNone = 0x00000000#32 := by decide

theorem err_code_toNat (e : Err) : 1 ≤ e.code.toNat ∧ e.code.toNat ≤ 12 := by cases e <;> decide

theorem err_bit_reserved (e : Err) : e.bit &&& ~~~errClearMask = 0 := by cases e <;> decide

theorem getLsbD_err_bit (e : Err) : e.bit.getLsbD e.code.toNat = true := by cases e <;> decide

theorem errAfterWrite_getLsbD (err v : Word) (n : Nat) (h : n < 32) :
    (errAfterWrite err v).getLsbD n =
      (err.getLsbD n && !(decide (1 ≤ n) && decide (n ≤ 12) && v.getLsbD n)) := by
  simp only [errAfterWrite, errClearMask, BitVec.getLsbD_and, BitVec.getLsbD_not]
  interval_cases n <;> simp

end Sys2Proof.Machine
end

