-- ==== Sys2Proof/Laws/Operands.lean ====
section
/-! SUPPORT. What the staging-buffer operations read and write, byte by byte. -/

namespace Sys2Proof.Machine

theorem operand_length (s : State) : s.operand.length = s.flen.val := by
  have := s.flen.isLt
  simp [State.operand]; omega

theorem operand_length_le (s : State) : s.operand.length ≤ 16 := by
  have := s.flen.isLt
  rw [operand_length]; omega

theorem operand_getD (s : State) (i : Nat) (h : i < s.flen.val) (d : Byte) :
    s.operand.getD i d = s.fbuf[i]'(by have := s.flen.isLt; omega) := by
  have := s.flen.isLt
  simp [State.operand, List.getD_eq_getElem?_getD, h, show i < 16 by omega]

theorem flenOf_val (n : Nat) (h : n ≤ 16) : (flenOf n).val = n := by
  simp [flenOf, Fin.ofNat, Nat.mod_eq_of_lt (show n < 17 by omega)]

theorem overlay_getElem (f : List Byte) (fbuf : Vector Byte 16) (i : Nat) (h : i < 16) :
    (overlay f fbuf)[i] = f.getD i fbuf[i] := by
  simp [overlay]

/-- The bytes a command has stored are the operand of the next (R134, R216). -/
theorem overlay_take (f : List Byte) (fbuf : Vector Byte 16) (h : f.length ≤ 16) :
    (overlay f fbuf).toList.take f.length = f := by
  apply List.ext_getElem
  · simp; omega
  · intro i h1 h2
    simp [overlay, List.getD_eq_getElem?_getD, h2]

theorem laneByte_fbufWord (fbuf : Vector Byte 16) (k j : Fin 4) :
    laneByte (fbufWord fbuf k) j = fbuf[laneIndex k j] := by
  fin_cases j <;>
    simp [laneByte, fbufWord, BitVec.extractLsb'_or, extract_place_self, extract_place_above, extract_place_below]

theorem fbufSetWord_getElem (fbuf : Vector Byte 16) (k : Fin 4) (v : Word) (i : Nat) (h : i < 16) :
    (fbufSetWord fbuf k v)[i] = if i / 4 = k.val then v.extractLsb' (8 * (i % 4)) 8 else fbuf[i] := by
  have := k.isLt
  simp only [fbufSetWord, laneIndex, laneByte, Vector.getElem_set]
  split_ifs with h3 h2 h1 h0 <;> first | omega | rfl | skip
  all_goals (congr 2; simp; omega)

end Sys2Proof.Machine
end

