-- ==== Sys2Proof/Laws/State.lean ====
section
/-! SUPPORT. One lemma for each field of State under each update of it: a later proof unfolds no record update. -/

namespace Sys2Proof.Machine

/-! ### raiseErr -/

@[simp] theorem raiseErr_session (e : Err) (s : State) : (raiseErr e s).session = s.session := rfl
@[simp] theorem raiseErr_txq (e : Err) (s : State) : (raiseErr e s).txq = s.txq := rfl
@[simp] theorem raiseErr_rxq (e : Err) (s : State) : (raiseErr e s).rxq = s.rxq := rfl
@[simp] theorem raiseErr_fbuf (e : Err) (s : State) : (raiseErr e s).fbuf = s.fbuf := rfl
@[simp] theorem raiseErr_flen (e : Err) (s : State) : (raiseErr e s).flen = s.flen := rfl
@[simp] theorem raiseErr_result (e : Err) (s : State) : (raiseErr e s).result = s.result := rfl
@[simp] theorem raiseErr_err (e : Err) (s : State) : (raiseErr e s).err = s.err ||| e.bit := rfl
@[simp] theorem raiseErr_lastErr (e : Err) (s : State) : (raiseErr e s).lastErr = e.code := rfl
@[simp] theorem raiseErr_line (e : Err) (s : State) : (raiseErr e s).line = s.line := rfl
@[simp] theorem raiseErr_now (e : Err) (s : State) : (raiseErr e s).now = s.now := rfl
@[simp] theorem raiseErr_inputs (e : Err) (s : State) : (raiseErr e s).inputs = s.inputs := rfl
@[simp] theorem raiseErr_reads (e : Err) (s : State) : (raiseErr e s).reads = s.reads := rfl

/-! ### commandFault -/

@[simp] theorem commandFault_session (e : Err) (s : State) : (commandFault e s).session = s.session := rfl
@[simp] theorem commandFault_txq (e : Err) (s : State) : (commandFault e s).txq = s.txq := rfl
@[simp] theorem commandFault_rxq (e : Err) (s : State) : (commandFault e s).rxq = s.rxq := rfl
@[simp] theorem commandFault_fbuf (e : Err) (s : State) : (commandFault e s).fbuf = s.fbuf := rfl
@[simp] theorem commandFault_flen (e : Err) (s : State) : (commandFault e s).flen = s.flen := rfl
@[simp] theorem commandFault_result (e : Err) (s : State) : (commandFault e s).result = resultFailed e.code := rfl
@[simp] theorem commandFault_err (e : Err) (s : State) : (commandFault e s).err = s.err ||| e.bit := rfl
@[simp] theorem commandFault_lastErr (e : Err) (s : State) : (commandFault e s).lastErr = e.code := rfl
@[simp] theorem commandFault_line (e : Err) (s : State) : (commandFault e s).line = s.line := rfl
@[simp] theorem commandFault_now (e : Err) (s : State) : (commandFault e s).now = s.now := rfl
@[simp] theorem commandFault_inputs (e : Err) (s : State) : (commandFault e s).inputs = s.inputs := rfl
@[simp] theorem commandFault_reads (e : Err) (s : State) : (commandFault e s).reads = s.reads := rfl

/-! ### sessionError -/

@[simp] theorem sessionError_session (e : Err) (s : State) : (sessionError e s).session = Session.idle := rfl
@[simp] theorem sessionError_txq (e : Err) (s : State) : (sessionError e s).txq = s.txq := rfl
@[simp] theorem sessionError_rxq (e : Err) (s : State) : (sessionError e s).rxq = s.rxq := rfl
@[simp] theorem sessionError_fbuf (e : Err) (s : State) : (sessionError e s).fbuf = s.fbuf := rfl
@[simp] theorem sessionError_flen (e : Err) (s : State) : (sessionError e s).flen = s.flen := rfl
@[simp] theorem sessionError_result (e : Err) (s : State) : (sessionError e s).result = s.result := rfl
@[simp] theorem sessionError_err (e : Err) (s : State) : (sessionError e s).err = s.err ||| e.bit := rfl
@[simp] theorem sessionError_lastErr (e : Err) (s : State) : (sessionError e s).lastErr = e.code := rfl
@[simp] theorem sessionError_line (e : Err) (s : State) : (sessionError e s).line = s.line := rfl
@[simp] theorem sessionError_now (e : Err) (s : State) : (sessionError e s).now = s.now := rfl
@[simp] theorem sessionError_inputs (e : Err) (s : State) : (sessionError e s).inputs = s.inputs := rfl
@[simp] theorem sessionError_reads (e : Err) (s : State) : (sessionError e s).reads = s.reads := rfl

/-! ### stageBuilt -/

@[simp] theorem State.stageBuilt_session (f : List Byte) (s : State) : (s.stageBuilt f).session = s.session := rfl
@[simp] theorem State.stageBuilt_txq (f : List Byte) (s : State) : (s.stageBuilt f).txq = s.txq := rfl
@[simp] theorem State.stageBuilt_rxq (f : List Byte) (s : State) : (s.stageBuilt f).rxq = s.rxq := rfl
@[simp] theorem State.stageBuilt_fbuf (f : List Byte) (s : State) : (s.stageBuilt f).fbuf = overlay f s.fbuf := rfl
@[simp] theorem State.stageBuilt_flen (f : List Byte) (s : State) : (s.stageBuilt f).flen = flenOf f.length := rfl
@[simp] theorem State.stageBuilt_result (f : List Byte) (s : State) : (s.stageBuilt f).result = resultSome (f.getD (f.length - 2) 0) := rfl
@[simp] theorem State.stageBuilt_err (f : List Byte) (s : State) : (s.stageBuilt f).err = s.err := rfl
@[simp] theorem State.stageBuilt_lastErr (f : List Byte) (s : State) : (s.stageBuilt f).lastErr = s.lastErr := rfl
@[simp] theorem State.stageBuilt_line (f : List Byte) (s : State) : (s.stageBuilt f).line = s.line := rfl
@[simp] theorem State.stageBuilt_now (f : List Byte) (s : State) : (s.stageBuilt f).now = s.now := rfl
@[simp] theorem State.stageBuilt_inputs (f : List Byte) (s : State) : (s.stageBuilt f).inputs = s.inputs := rfl
@[simp] theorem State.stageBuilt_reads (f : List Byte) (s : State) : (s.stageBuilt f).reads = s.reads := rfl

/-! ### stageAppend -/

@[simp] theorem State.stageAppend_session (b : Byte) (s : State) : (s.stageAppend b).session = s.session := rfl
@[simp] theorem State.stageAppend_txq (b : Byte) (s : State) : (s.stageAppend b).txq = s.txq := rfl
@[simp] theorem State.stageAppend_rxq (b : Byte) (s : State) : (s.stageAppend b).rxq = s.rxq := rfl
@[simp] theorem State.stageAppend_fbuf (b : Byte) (s : State) : (s.stageAppend b).fbuf = s.fbuf.setIfInBounds s.flen.val b := rfl
@[simp] theorem State.stageAppend_flen (b : Byte) (s : State) : (s.stageAppend b).flen = flenOf (s.flen.val + 1) := rfl
@[simp] theorem State.stageAppend_result (b : Byte) (s : State) : (s.stageAppend b).result = s.result := rfl
@[simp] theorem State.stageAppend_err (b : Byte) (s : State) : (s.stageAppend b).err = s.err := rfl
@[simp] theorem State.stageAppend_lastErr (b : Byte) (s : State) : (s.stageAppend b).lastErr = s.lastErr := rfl
@[simp] theorem State.stageAppend_line (b : Byte) (s : State) : (s.stageAppend b).line = s.line := rfl
@[simp] theorem State.stageAppend_now (b : Byte) (s : State) : (s.stageAppend b).now = s.now := rfl
@[simp] theorem State.stageAppend_inputs (b : Byte) (s : State) : (s.stageAppend b).inputs = s.inputs := rfl
@[simp] theorem State.stageAppend_reads (b : Byte) (s : State) : (s.stageAppend b).reads = s.reads := rfl

/-! ### beginStep -/

@[simp] theorem State.beginStep_session (s : State) : s.beginStep.session = s.session := rfl
@[simp] theorem State.beginStep_txq (s : State) : s.beginStep.txq = s.txq := rfl
@[simp] theorem State.beginStep_rxq (s : State) : s.beginStep.rxq = s.rxq := rfl
@[simp] theorem State.beginStep_fbuf (s : State) : s.beginStep.fbuf = s.fbuf := rfl
@[simp] theorem State.beginStep_flen (s : State) : s.beginStep.flen = s.flen := rfl
@[simp] theorem State.beginStep_result (s : State) : s.beginStep.result = s.result := rfl
@[simp] theorem State.beginStep_err (s : State) : s.beginStep.err = s.err := rfl
@[simp] theorem State.beginStep_lastErr (s : State) : s.beginStep.lastErr = s.lastErr := rfl
@[simp] theorem State.beginStep_line (s : State) : s.beginStep.line = { s.line with rx := s.line.rx ++ s.line.nextMoment.arrive, script := s.line.script.tail } := rfl
@[simp] theorem State.beginStep_now (s : State) : s.beginStep.now = s.now + s.line.nextMoment.elapse := rfl
@[simp] theorem State.beginStep_inputs (s : State) : s.beginStep.inputs = s.inputs := rfl
@[simp] theorem State.beginStep_reads (s : State) : s.beginStep.reads = s.reads := rfl

/-! ### takeRx -/

@[simp] theorem State.takeRx_session (rest : List RxItem) (s : State) : (s.takeRx rest).session = s.session := rfl
@[simp] theorem State.takeRx_txq (rest : List RxItem) (s : State) : (s.takeRx rest).txq = s.txq := rfl
@[simp] theorem State.takeRx_rxq (rest : List RxItem) (s : State) : (s.takeRx rest).rxq = s.rxq := rfl
@[simp] theorem State.takeRx_fbuf (rest : List RxItem) (s : State) : (s.takeRx rest).fbuf = s.fbuf := rfl
@[simp] theorem State.takeRx_flen (rest : List RxItem) (s : State) : (s.takeRx rest).flen = s.flen := rfl
@[simp] theorem State.takeRx_result (rest : List RxItem) (s : State) : (s.takeRx rest).result = s.result := rfl
@[simp] theorem State.takeRx_err (rest : List RxItem) (s : State) : (s.takeRx rest).err = s.err := rfl
@[simp] theorem State.takeRx_lastErr (rest : List RxItem) (s : State) : (s.takeRx rest).lastErr = s.lastErr := rfl
@[simp] theorem State.takeRx_line (rest : List RxItem) (s : State) : (s.takeRx rest).line = { s.line with rx := rest } := rfl
@[simp] theorem State.takeRx_now (rest : List RxItem) (s : State) : (s.takeRx rest).now = s.now := rfl
@[simp] theorem State.takeRx_inputs (rest : List RxItem) (s : State) : (s.takeRx rest).inputs = s.inputs := rfl
@[simp] theorem State.takeRx_reads (rest : List RxItem) (s : State) : (s.takeRx rest).reads = s.reads := rfl

/-! ### handToLine -/

@[simp] theorem State.handToLine_session (v : Byte) (s : State) : (s.handToLine v).session = s.session := rfl
@[simp] theorem State.handToLine_txq (v : Byte) (s : State) : (s.handToLine v).txq = s.txq := rfl
@[simp] theorem State.handToLine_rxq (v : Byte) (s : State) : (s.handToLine v).rxq = s.rxq := rfl
@[simp] theorem State.handToLine_fbuf (v : Byte) (s : State) : (s.handToLine v).fbuf = s.fbuf := rfl
@[simp] theorem State.handToLine_flen (v : Byte) (s : State) : (s.handToLine v).flen = s.flen := rfl
@[simp] theorem State.handToLine_result (v : Byte) (s : State) : (s.handToLine v).result = s.result := rfl
@[simp] theorem State.handToLine_err (v : Byte) (s : State) : (s.handToLine v).err = s.err := rfl
@[simp] theorem State.handToLine_lastErr (v : Byte) (s : State) : (s.handToLine v).lastErr = s.lastErr := rfl
@[simp] theorem State.handToLine_line (v : Byte) (s : State) : (s.handToLine v).line = { s.line with handed := s.line.handed ++ [v] } := rfl
@[simp] theorem State.handToLine_now (v : Byte) (s : State) : (s.handToLine v).now = s.now := rfl
@[simp] theorem State.handToLine_inputs (v : Byte) (s : State) : (s.handToLine v).inputs = s.inputs := rfl
@[simp] theorem State.handToLine_reads (v : Byte) (s : State) : (s.handToLine v).reads = s.reads := rfl

/-! ### wait -/

@[simp] theorem State.wait_session (us : Nat) (s : State) : (s.wait us).session = s.session := rfl
@[simp] theorem State.wait_txq (us : Nat) (s : State) : (s.wait us).txq = s.txq := rfl
@[simp] theorem State.wait_rxq (us : Nat) (s : State) : (s.wait us).rxq = s.rxq := rfl
@[simp] theorem State.wait_fbuf (us : Nat) (s : State) : (s.wait us).fbuf = s.fbuf := rfl
@[simp] theorem State.wait_flen (us : Nat) (s : State) : (s.wait us).flen = s.flen := rfl
@[simp] theorem State.wait_result (us : Nat) (s : State) : (s.wait us).result = s.result := rfl
@[simp] theorem State.wait_err (us : Nat) (s : State) : (s.wait us).err = s.err := rfl
@[simp] theorem State.wait_lastErr (us : Nat) (s : State) : (s.wait us).lastErr = s.lastErr := rfl
@[simp] theorem State.wait_line (us : Nat) (s : State) : (s.wait us).line = s.line := rfl
@[simp] theorem State.wait_now (us : Nat) (s : State) : (s.wait us).now = s.now + us := rfl
@[simp] theorem State.wait_inputs (us : Nat) (s : State) : (s.wait us).inputs = s.inputs := rfl
@[simp] theorem State.wait_reads (us : Nat) (s : State) : (s.wait us).reads = s.reads := rfl

/-! ### platformReset -/

@[simp] theorem State.platformReset_session (s : State) : s.platformReset.session = Session.idle := rfl
@[simp] theorem State.platformReset_txq (s : State) : s.platformReset.txq = [] := rfl
@[simp] theorem State.platformReset_rxq (s : State) : s.platformReset.rxq = [] := rfl
@[simp] theorem State.platformReset_fbuf (s : State) : s.platformReset.fbuf = Vector.replicate 16 0 := rfl
@[simp] theorem State.platformReset_flen (s : State) : s.platformReset.flen = 0 := rfl
@[simp] theorem State.platformReset_result (s : State) : s.platformReset.result = 0 := rfl
@[simp] theorem State.platformReset_err (s : State) : s.platformReset.err = 0 := rfl
@[simp] theorem State.platformReset_lastErr (s : State) : s.platformReset.lastErr = 0 := rfl
@[simp] theorem State.platformReset_line (s : State) : s.platformReset.line = s.line := rfl
@[simp] theorem State.platformReset_now (s : State) : s.platformReset.now = s.now := rfl
@[simp] theorem State.platformReset_inputs (s : State) : s.platformReset.inputs = s.inputs := rfl
@[simp] theorem State.platformReset_reads (s : State) : s.platformReset.reads = s.reads := rfl

/-! ### withFetchWord -/

@[simp] theorem State.withFetchWord_session (s : State) (nbits w : Nat) : (s.withFetchWord nbits w).session = s.session := rfl
@[simp] theorem State.withFetchWord_txq (s : State) (nbits w : Nat) : (s.withFetchWord nbits w).txq = s.txq := rfl
@[simp] theorem State.withFetchWord_rxq (s : State) (nbits w : Nat) : (s.withFetchWord nbits w).rxq = s.rxq := rfl
@[simp] theorem State.withFetchWord_fbuf (s : State) (nbits w : Nat) : (s.withFetchWord nbits w).fbuf = s.fbuf := rfl
@[simp] theorem State.withFetchWord_flen (s : State) (nbits w : Nat) : (s.withFetchWord nbits w).flen = s.flen := rfl
@[simp] theorem State.withFetchWord_result (s : State) (nbits w : Nat) : (s.withFetchWord nbits w).result = s.result := rfl
@[simp] theorem State.withFetchWord_err (s : State) (nbits w : Nat) : (s.withFetchWord nbits w).err = s.err := rfl
@[simp] theorem State.withFetchWord_lastErr (s : State) (nbits w : Nat) : (s.withFetchWord nbits w).lastErr = s.lastErr := rfl
@[simp] theorem State.withFetchWord_line (s : State) (nbits w : Nat) : (s.withFetchWord nbits w).line = s.line := rfl
@[simp] theorem State.withFetchWord_now (s : State) (nbits w : Nat) : (s.withFetchWord nbits w).now = s.now := rfl
@[simp] theorem State.withFetchWord_inputs (s : State) (nbits w : Nat) : (s.withFetchWord nbits w).inputs = commandInput (tableWord nbits w) :: s.inputs := rfl
@[simp] theorem State.withFetchWord_reads (s : State) (nbits w : Nat) : (s.withFetchWord nbits w).reads = s.reads := rfl

end Sys2Proof.Machine
end

