-- ==== Sys2Proof/Laws/Ops.lean ====
section
/-! SUPPORT. What the shared operations do. -/

namespace Sys2Proof.Machine

/-- A push either appends the entry, with room for it, or takes nothing (R210, R212). -/
theorem pushBounded_of_room {cap : Nat} {q : List (List Byte)} (e : List Byte) (h : q.length < cap) :
    pushBounded cap e q = some (q ++ [e]) := by simp [pushBounded, h]

theorem pushBounded_of_full {cap : Nat} {q : List (List Byte)} (e : List Byte) (h : cap ≤ q.length) :
    pushBounded cap e q = none := by simp [pushBounded, Nat.not_lt.mpr h]

/-- What the line supplies does not change when its next moment begins: the items only become readable. -/
theorem beginStep_supply (s : State) : s.beginStep.line.supply = s.line.supply := by
  cases h : s.line.script with
  | nil => simp [Line.supply, Line.nextMoment, h]
  | cons m ms => simp [Line.supply, Line.nextMoment, h]; omega

theorem lineReadable_iff (s : State) : s.lineReadable = true ↔ s.line.rx ≠ [] := by
  simp [State.lineReadable]

/-- The elapsed time at a step's `Now()`, from the timer's whole count (R174, R175). -/
theorem elapsed_readNow (c : Params) (s : State) (t0 : Time) :
    elapsed c (s.readNow c) t0 = ((s.now : Int) - (t0 : Int)) % (2 : Int) ^ c.pTimerBits := by
  simp [elapsed, State.readNow, Params.timerModulus]

end Sys2Proof.Machine
end

