-- ==== Sys2Proof/Laws/PerInstr.lean ====
section
/-! SUPPORT. One family of facts said for each command by itself: its word lies in its own row of the opcode map (R101). -/

namespace Sys2Proof.Laws.OwnRow

/-- The mnemonic of a command's row (R101). -/
def mnemonicOf : Instr → String
  | .tick => "TICK"
  | .enq => "ENQ"
  | .pop => "POP"
  | .cksum => "CKSUM"
  | .bstat _ => "BSTAT"
  | .bfschg _ => "BFSCHG"
  | .ledst => "LEDST"
  | .afeed _ _ => "AFEED"

/-- The command's word selects the row of the command's own mnemonic (R101). -/
def Statement (i : Instr) : Prop := ∃ r ∈ opcodeMap, r.mnemonic = mnemonicOf i ∧ r.selects (encode i) = true

theorem tick : Statement .tick := by unfold Statement; decide
theorem enq : Statement .enq := by unfold Statement; decide
theorem pop : Statement .pop := by unfold Statement; decide
theorem cksum : Statement .cksum := by unfold Statement; decide
theorem ledst : Statement .ledst := by unfold Statement; decide

theorem bstat (fs : Byte) : Statement (.bstat fs) := by
  refine ⟨⟨"BSTAT", 0xFFFF00FF, 0x00000011, fun a _ => .bstat a⟩, by simp [opcodeMap], rfl, ?_⟩
  rw [selects_iff_fields]
  simp only [encode, fieldOpc_wordOf, fieldA_wordOf, fieldB_wordOf, fieldReserved_wordOf]
  simp [fieldOpc, fieldA, fieldB, fieldReserved]

theorem bfschg (fs : Byte) : Statement (.bfschg fs) := by
  refine ⟨⟨"BFSCHG", 0xFFFF00FF, 0x00000012, fun a _ => .bfschg a⟩, by simp [opcodeMap], rfl, ?_⟩
  rw [selects_iff_fields]
  simp only [encode, fieldOpc_wordOf, fieldA_wordOf, fieldB_wordOf, fieldReserved_wordOf]
  simp [fieldOpc, fieldA, fieldB, fieldReserved]

theorem afeed (b t : Byte) : Statement (.afeed b t) := by
  refine ⟨⟨"AFEED", 0xFF0000FF, 0x00000020, fun a b => .afeed a b⟩, by simp [opcodeMap], rfl, ?_⟩
  rw [selects_iff_fields]
  simp only [encode, fieldOpc_wordOf, fieldA_wordOf, fieldB_wordOf, fieldReserved_wordOf]
  simp [fieldOpc, fieldA, fieldB, fieldReserved]

end Sys2Proof.Laws.OwnRow
end

