-- ==== Sys2Proof/Laws/Session.lean ====
section
/-! SUPPORT. Everything one session step can do, said once, and the shape of every run of TICK's loop. -/

namespace Sys2Proof.Machine

/-- The progress steps, one case for each arm of R176 to R182 that says `progress`. -/
inductive StepProgress (c : Params) (m : Moment) (s : State) : State → Prop
  | idleReceives (hs : s.session = .idle) (hr : s.line.rx ≠ []) :
      StepProgress c m s { s with session := .receiving [] }
  | idleSends (buf : List Byte) (rest : List (List Byte)) (hs : s.session = .idle) (hr : s.line.rx = [])
      (hq : s.txq = buf :: rest) (hb : m.busy = false) :
      StepProgress c m s { s with txq := rest, session := .sending buf 0 }
  | writes (buf : List Byte) (cursor : Nat) (v : Byte) (hs : s.session = .sending buf cursor)
      (hv : buf[cursor]? = some v) (hw : m.write = .ok) :
      StepProgress c m s { s.handToLine v with session := .waitingEcho buf cursor (s.readNow c) }
  | writeFails (buf : List Byte) (cursor : Nat) (v : Byte) (hs : s.session = .sending buf cursor)
      (hv : buf[cursor]? = some v) (hw : m.write = .ioErr) :
      StepProgress c m s (sessionError .ioError (s.handToLine v))
  | echoFails (buf : List Byte) (cursor : Nat) (t0 : Time) (rest : List RxItem)
      (hs : s.session = .waitingEcho buf cursor t0) (hr : s.line.rx = .ioErr :: rest) :
      StepProgress c m s (sessionError .ioError (s.takeRx rest))
  | echoLast (buf : List Byte) (cursor : Nat) (t0 : Time) (v : Byte) (rest : List RxItem)
      (hs : s.session = .waitingEcho buf cursor t0) (hr : s.line.rx = .byte v :: rest) (hv : buf[cursor]? = some v)
      (hl : cursor + 1 = buf.length) :
      StepProgress c m s { s.takeRx rest with session := .waitingReply (s.readNow c) }
  | echoNext (buf : List Byte) (cursor : Nat) (t0 : Time) (v : Byte) (rest : List RxItem)
      (hs : s.session = .waitingEcho buf cursor t0) (hr : s.line.rx = .byte v :: rest) (hv : buf[cursor]? = some v)
      (hl : cursor + 1 ≠ buf.length) :
      StepProgress c m s { s.takeRx rest with session := .sending buf (cursor + 1) }
  | echoDiffers (buf : List Byte) (cursor : Nat) (t0 : Time) (v w : Byte) (rest : List RxItem)
      (hs : s.session = .waitingEcho buf cursor t0) (hr : s.line.rx = .byte v :: rest) (hv : buf[cursor]? = some w)
      (hd : v ≠ w) :
      StepProgress c m s (sessionError .echoMismatch (s.takeRx rest))
  | echoLate (buf : List Byte) (cursor : Nat) (t0 : Time) (hs : s.session = .waitingEcho buf cursor t0)
      (hr : s.line.rx = []) (ht : timedOut c (s.readNow c) t0 c.pEchoTimeoutUs = true) :
      StepProgress c m s (sessionError .echoTimeout s)
  | replyReadable (t0 : Time) (hs : s.session = .waitingReply t0) (hr : s.line.rx ≠ []) :
      StepProgress c m s { s with session := .receiving [] }
  | replyLate (t0 : Time) (hs : s.session = .waitingReply t0) (hr : s.line.rx = [])
      (ht : timedOut c (s.readNow c) t0 c.pReplyTimeoutUs = true) :
      StepProgress c m s (sessionError .replyTimeout s)
  | receiveFails (acc : List Byte) (rest : List RxItem) (hs : s.session = .receiving acc)
      (hr : s.line.rx = .ioErr :: rest) :
      StepProgress c m s (sessionError .ioError (s.takeRx rest))
  | receives (acc : List Byte) (v : Byte) (rest : List RxItem) (hs : s.session = .receiving acc)
      (hr : s.line.rx = .byte v :: rest) :
      StepProgress c m s (received c acc v (s.takeRx rest))

/-- A progress step is one of the cases of `StepProgress`. -/
theorem sessionStep_progress {c : Params} {m : Moment} {s t : State} (h : sessionStep c m s = .progress t) :
    StepProgress c m s t := by
  unfold sessionStep at h
  cases hs : s.session with
  | idle =>
    simp only [hs, stepIdle] at h
    split at h
    · next hr => cases h; exact .idleReceives hs ((lineReadable_iff s).mp hr)
    · next hr =>
      have hr : s.line.rx = [] := by simpa [lineReadable_iff] using hr
      split at h
      · cases h
      · next buf rest hq =>
        split at h
        · cases h
        · next hb => cases h; exact .idleSends buf rest hs hr hq (by simpa using hb)
  | sending buf cursor =>
    simp only [hs, stepSending] at h
    split at h
    · cases h
    · next v hv =>
      split at h <;> cases h
      · next hw => exact .writes buf cursor v hs hv hw
      · next hw => exact .writeFails buf cursor v hs hv hw
  | waitingEcho buf cursor t0 =>
    simp only [hs, stepWaitingEcho] at h
    split at h
    · next rest hr => cases h; exact .echoFails buf cursor t0 rest hs hr
    · next v rest hr =>
      split at h
      · cases h
      · next w hv =>
        split at h
        · next hvw =>
          subst hvw
          cases h
          unfold echoMatched
          split
          · next hl => exact .echoLast buf cursor t0 v rest hs hr hv hl
          · next hl => exact .echoNext buf cursor t0 v rest hs hr hv hl
        · next hd => cases h; exact .echoDiffers buf cursor t0 v w rest hs hr hv hd
    · next hr =>
      split at h
      · next ht => cases h; exact .echoLate buf cursor t0 hs hr ht
      · cases h
  | waitingReply t0 =>
    simp only [hs, stepWaitingReply] at h
    split at h
    · next hr => cases h; exact .replyReadable t0 hs ((lineReadable_iff s).mp hr)
    · next hr =>
      split at h
      · next ht => cases h; exact .replyLate t0 hs (by simpa [lineReadable_iff] using hr) ht
      · cases h
  | receiving acc =>
    simp only [hs, stepReceiving] at h
    split at h
    · cases h
    · next rest hr => cases h; exact .receiveFails acc rest hs hr
    · next v rest hr => cases h; exact .receives acc v rest hs hr

/-- What one received byte does, by the verdict (R182, R183). -/
theorem received_cases (c : Params) (acc : List Byte) (v : Byte) (s : State) :
    (∃ acc', update c acc v c.pRxLen = .incomplete acc' ∧ received c acc v s = { s with session := .receiving acc' }) ∨
    (∃ f, update c acc v c.pRxLen = .complete f ∧ s.rxq.length < c.pRxqCap ∧
      received c acc v s = { s with rxq := s.rxq ++ [f], session := .idle }) ∨
    (∃ f, update c acc v c.pRxLen = .complete f ∧ c.pRxqCap ≤ s.rxq.length ∧
      received c acc v s = sessionError .rxQueueFull s) ∨
    (∃ r, update c acc v c.pRxLen = .invalid r ∧ received c acc v s = sessionError r.err s) := by
  unfold received
  cases hu : update c acc v c.pRxLen with
  | incomplete acc' => exact .inl ⟨acc', rfl, rfl⟩
  | complete f =>
    rcases Nat.lt_or_ge s.rxq.length c.pRxqCap with h | h
    · exact .inr (.inl ⟨f, rfl, h, by simp [deliver, pushBounded_of_room f h]⟩)
    · exact .inr (.inr (.inl ⟨f, rfl, h, by simp [deliver, pushBounded_of_full f h, raiseErr, sessionError]⟩))
  | invalid r => exact .inr (.inr (.inr ⟨r, rfl, rfl⟩))

/-- Every progress step lowers the bound on a TICK's steps (R191). -/
theorem progress_lowers_bound {c : Params} {m : Moment} {s t : State} (h : sessionStep c m s = .progress t) :
    t.tickBound < s.tickBound := by
  cases sessionStep_progress h with
  | receives acc v rest hs hr =>
    rcases received_cases c acc v (s.takeRx rest) with ⟨_, _, e⟩ | ⟨_, _, _, e⟩ | ⟨_, _, _, e⟩ | ⟨_, _, e⟩ <;>
      simp [e, State.tickBound, Line.supply, hs, hr, Session.weight] <;> omega
  | _ => simp_all [State.tickBound, Line.supply, Session.weight] <;> omega

/-- The bound is the same when a session step's moment begins. -/
theorem beginStep_bound (s : State) : s.beginStep.tickBound = s.tickBound := by
  simp only [State.tickBound, beginStep_supply, State.beginStep_txq, State.beginStep_session]

/-- How every run of TICK's loop that completes ends: at a quiescent step, by a reset before a step, or by a reset that ends
a held write. `P` is anything that the steps before the end keep. -/
theorem tickLoop_next {c : Params} {P : State → Prop}
    (hstep : ∀ s t, P s → sessionStep c s.line.nextMoment s.beginStep = .progress t → P t)
    (hwait : ∀ s, P s → sessionStep c s.line.nextMoment s.beginStep = .quiescent → P (s.beginStep.wait c.pRepollDelayUs)) :
    ∀ (fuel : Nat) (any rep : Bool) (s t : State), P s → tickLoop c fuel any rep s = .next t →
      (∃ (s' : State) (any' : Bool), P s' ∧ (any = true → any' = true) ∧
        sessionStep c s'.line.nextMoment s'.beginStep = .quiescent ∧
        t = { s'.beginStep with result := tickResultWord any' }) ∨
      (∃ s', P s' ∧ s'.line.nextMoment.reset = true ∧ t = s'.beginStep.platformReset) ∨
      (∃ s' s'', P s' ∧ sessionStep c s'.line.nextMoment s'.beginStep = .heldToReset s'' ∧ t = s''.platformReset) := by
  intro fuel
  induction fuel with
  | zero => intro any rep s t _ h; simp [tickLoop] at h
  | succ fuel ih =>
    intro any rep s t hP h
    simp only [tickLoop] at h
    split at h
    · cases h
    split at h
    · next hr => cases h; exact .inr (.inl ⟨s, hP, hr, rfl⟩)
    split at h
    · next s' hs =>
      rcases ih true rep s' t (hstep s s' hP hs) h with ⟨s1, a1, h1, h2, h3⟩ | h1 | h1
      · exact .inl ⟨s1, a1, h1, fun _ => h2 rfl, h3⟩
      · exact .inr (.inl h1)
      · exact .inr (.inr h1)
    · next hs =>
      split at h
      · exact ih any true _ t (hwait s hP hs) h
      · cases h; exact .inl ⟨s, any, hP, id, hs, rfl⟩
    · next s' hs => cases h; exact .inr (.inr ⟨s, s', hP, hs, rfl⟩)
    · cases h

/-- A progress step uses up no moment of the line's script: its own was taken when it began. -/
theorem progress_script {c : Params} {m : Moment} {s t : State} (h : sessionStep c m s = .progress t) :
    t.line.script = s.line.script ∧ t.line.ending = s.line.ending := by
  cases sessionStep_progress h with
  | receives acc v rest hs hr =>
    rcases received_cases c acc v (s.takeRx rest) with ⟨_, _, e⟩ | ⟨_, _, _, e⟩ | ⟨_, _, _, e⟩ | ⟨_, _, e⟩ <;>
      exact e ▸ ⟨rfl, rfl⟩
  | _ => exact ⟨rfl, rfl⟩

/-- A line that does not flood at a later head of the loop did not flood before. -/
theorem TickReaches.not_flooding {c : Params} {s u : State} (h : TickReaches c s u) (hu : u.line.flooding = false) :
    s.line.flooding = false := by
  induction h with
  | here => exact hu
  | later s s' u hr hs h' ih =>
    have e := progress_script hs
    have hs' := ih hu
    simp only [Line.flooding, e.1, e.2, State.beginStep_line, Bool.and_eq_false_iff] at hs' ⊢
    rcases hs' with k | k
    · left; cases hq : s.line.script <;> simp_all
    · exact .inr k

/-- TICK's loop goes on from every head that it reaches, with enough steps left (R191). -/
theorem tickLoop_of_reaches {c : Params} {s u : State} (h : TickReaches c s u) (hu : u.line.flooding = false) :
    ∀ (fuel : Nat) (any : Bool), s.tickBound < fuel →
      ∃ (fuel' : Nat) (any' : Bool), u.tickBound < fuel' ∧ tickLoop c fuel any false s = tickLoop c fuel' any' false u := by
  induction h with
  | here s => intro fuel any hf; exact ⟨fuel, any, hf, rfl⟩
  | later s s' u hr hs h' ih =>
    intro fuel any hf
    have lower := progress_lowers_bound hs
    rw [beginStep_bound] at lower
    obtain ⟨k, rfl⟩ : ∃ k, fuel = k + 1 := ⟨fuel - 1, by omega⟩
    obtain ⟨fuel', any', h1, h2⟩ := ih hu k true (by omega)
    refine ⟨fuel', any', h1, ?_⟩
    rw [← h2, tickLoop]
    simp [(TickReaches.later s s' u hr hs h').not_flooding hu, hr, hs]

end Sys2Proof.Machine
end

