-- ==== Sys2Proof/Laws/Step.lean ====
section
/-! SUPPORT. Host accesses by bus address: which are admitted, and which register each reaches. -/

namespace Sys2Proof.Machine

@[simp] theorem writeAt_base_add (off size : Nat) (v : Word) :
    writeAt (Config.pBase + off) size v = .write off size v := by
  simp [writeAt]

@[simp] theorem writeAt_base (size : Nat) (v : Word) : writeAt Config.pBase size v = .write 0 size v := by
  simp [writeAt]

@[simp] theorem readAt_base_add (off size : Nat) : readAt (Config.pBase + off) size = .read off size := by
  simp [readAt]

/-- The admitted accesses (R76). -/
theorem admitted_iff (off : Int) (size : Nat) :
    admitted off size = true ↔ size = 4 ∧ off % 4 = 0 ∧ 0 ≤ off ∧ off < 0x40 := by
  simp [admitted, and_assoc]

/-- A register stands at its offset (R71). -/
@[simp] theorem regAt_offset (r : Reg) : regAt r.offset = some r := by
  cases r with
  | fbuf k => fin_cases k <;> rfl
  | _ => rfl

/-- Every register's offset is admitted. -/
theorem admitted_offset (r : Reg) : admitted (r.offset : Int) 4 = true := by
  cases r with
  | fbuf k => fin_cases k <;> decide
  | _ => decide

/-- The commands of `exec` are those of `execOn` at the defaults of R6. -/
theorem execOn_hw : execOn Params.hw = exec := by
  funext i s
  cases i <;> rfl

/-- The machine at the defaults of R6 is `step`. -/
theorem stepOn_hw : stepOn Params.hw = step := by
  funext s
  simp only [stepOn, step, execOn_hw]

/-- A step with an input pending, whatever commands do. -/
theorem performNext_of_input {run : CommandMeaning} {s : State} {i : Input} {rest : List Input} (h : s.inputs = i :: rest) :
    performNext run s = performInput run i { s with inputs := rest } := by simp [performNext, h]

theorem step_of_input {s : State} {i : Input} {rest : List Input} (h : s.inputs = i :: rest) :
    step s = performInput exec i { s with inputs := rest } := performNext_of_input h

/-- A write to a register, performed. -/
theorem step_write {s : State} {r : Reg} {v : Word} {rest : List Input} (h : s.inputs = .write r.offset 4 v :: rest) :
    step s = writeReg exec (some r) v { s with inputs := rest } := by
  simp [step_of_input h, performInput, admitted_offset]

/-- The command word that `withFetchWord` places is the next access. -/
theorem step_withFetchWord (s : State) (nbits w : Nat) :
    step (s.withFetchWord nbits w) = writeCmd exec (tableWord nbits w) s := by
  rfl

end Sys2Proof.Machine
end

