-- ==== Sys2Proof/Machine/AsmText.lean ====
section
/-! DEFINITION. The written form of a host program: one operation a line, a mnemonic and comma-separated operands, `;` begins
a comment (spec/30_encoding.md R111 to R113). Which blanks may stand between them is the model's choice (log entry 17). -/

namespace Sys2Proof.Machine

/-- A blank between the parts of a line. -/
def isBlank (ch : Char) : Bool := ch == ' ' || ch == '\t'

/-- The text without the blanks before and after it. -/
def trimBlanks (l : List Char) : List Char := ((l.dropWhile isBlank).reverse.dropWhile isBlank).reverse

/-- The parts of a text between its commas. -/
def splitCommas : List Char → List (List Char)
  | [] => [[]]
  | ch :: rest =>
    match splitCommas rest with
    | [] => [[ch]]
    | p :: ps => if ch = ',' then [] :: p :: ps else (ch :: p) :: ps

/-- The value of a digit of a base up to sixteen. -/
def digitValue (base : Nat) (ch : Char) : Option Nat :=
  let n := ch.toNat
  let v :=
    if '0'.toNat ≤ n ∧ n ≤ '9'.toNat then some (n - '0'.toNat)
    else if 'a'.toNat ≤ n ∧ n ≤ 'f'.toNat then some (n - 'a'.toNat + 10)
    else if 'A'.toNat ≤ n ∧ n ≤ 'F'.toNat then some (n - 'A'.toNat + 10)
    else none
  v.filter (fun d => d < base)

/-- The number that a run of digits writes, after the digits read so far. -/
def digitsValue (base : Nat) : Nat → List Char → Option Nat
  | acc, [] => some acc
  | acc, ch :: rest =>
    match digitValue base ch with
    | some d => digitsValue base (acc * base + d) rest
    | none => none

/-- A hex (`0x..`) or decimal number (R111). -/
def parseNumber : List Char → Option Nat
  | [] => none
  | ['0', 'x'] => none
  | '0' :: 'x' :: ds => digitsValue 16 0 ds
  | ds => digitsValue 10 0 ds

/-- An immediate: `#` followed by a number (R111). -/
def parseImmediate : List Char → Option Nat
  | '#' :: ds => parseNumber ds
  | _ => none

/-- The register names of R112. -/
def regNames : List (String × Reg) :=
  [("CMD", .cmd), ("STATUS", .status), ("ERR", .err), ("RESULT", .result), ("FLEN", .flen), ("LAST_ERR", .lastErr),
    ("FBUF0", .fbuf 0), ("FBUF1", .fbuf 1), ("FBUF2", .fbuf 2), ("FBUF3", .fbuf 3)]

/-- The register of a name (R112). -/
def parseReg (l : List Char) : Option Reg := (regNames.find? (fun p => p.1.toList == l)).map (·.2)

/-- The operation of a mnemonic and its operands (R111 to R113); `none` where the line is no operation. -/
def parseOp (mnemonic : String) (operands : List (List Char)) : Option HostOp :=
  match mnemonic, operands with
  | "tick", [] => some .tick
  | "enq", [] => some .enq
  | "pop", [] => some .pop
  | "cksum", [] => some .cksum
  | "ledst", [] => some .ledst
  | "clrerr", [] => some .clrerr
  | "bstat", [a] => (parseImmediate a).map .bstat
  | "bfschg", [a] => (parseImmediate a).map .bfschg
  | "afeed", [a, b] =>
    match parseImmediate a, parseImmediate b with
    | some x, some t => some (.afeed x t)
    | _, _ => none
  | "rd", [r] => (parseReg r).map .rd
  | "wr", [r, v] =>
    match parseReg r, parseImmediate v with
    | some x, some n => some (.wr x n)
    | _, _ => none
  | "fset", bs => (bs.mapM parseNumber).map .fset
  | _, _ => none

/-- What a line of a host program is. -/
inductive SourceLine where
  /-- No operation: nothing but blanks and a comment. That such a line is legal is the model's choice (log entry 17). -/
  | empty
  | op (o : HostOp)
  /-- Not a line of the language, or an immediate that does not fit (R111). -/
  | error
deriving DecidableEq, Repr

/-- A line of a host program (R111).
DESIGN CHOICE (log entry 17): R111 puts one operation on a line and leaves open whether a line may hold none; here a line
of blanks, a comment or nothing at all is legal and emits nothing. -/
def parseLine (line : String) : SourceLine :=
  let text := trimBlanks (line.toList.takeWhile (· ≠ ';'))
  if text.isEmpty then .empty
  else
    let rest := trimBlanks (text.dropWhile (fun ch => !isBlank ch))
    let operands := if rest.isEmpty then [] else (splitCommas rest).map trimBlanks
    match parseOp (String.ofList (text.takeWhile (fun ch => !isBlank ch))) operands with
    | some o => if o.wf then .op o else .error
    | none => .error

/-- A program's accesses, from its lines in order; an error in one line is an error of the program. -/
def assembleText : List String → Option (List Input)
  | [] => some []
  | line :: rest =>
    match parseLine line, assembleText rest with
    | .empty, some b => some b
    | .op o, some b => (assemble o).map (· ++ b)
    | _, _ => none

end Sys2Proof.Machine
end

