-- ==== Sys2Proof/Tests/Slice0.lean ====
section
/-! SUPPORT. The model's own tests. The expected values are those of spec/95_test_vectors.md (V and P numbers), of the
opcode map R101, and of the rules named beside a test; none is an answer of the model. After them, for each statement with
hypotheses, a concrete state and operands that meet them. -/

namespace Sys2Proof.Tests

open Sys2Proof Sys2Proof.Machine

/-! ### Builders -/

/-- The state of an outcome that has one. -/
def nextOf : Host.Outcome State Fault Refusal → Option State
  | .next s => some s
  | .fault _ => none
  | .refused _ => none

/-- The reset state with the staging buffer's first bytes and its length. -/
def staged (bs : List Byte) : State :=
  { State.reset with fbuf := overlay bs State.reset.fbuf, flen := flenOf bs.length }

/-- The reset state with the session and the line's waiting items. -/
def inSession (x : Session) (rx : List RxItem) : State := { State.reset with session := x, line := { rx := rx } }

/-- The reset state with accesses pending. -/
def pending (l : List Input) : State := { State.reset with inputs := l }

/-- The frame of S10: a status report of 0x2A. -/
def ledFrame : List Byte := [0xF0, 0x00, 0x00, 0x2A, 0x56, 0xF7]

/-- A state at the limits: both queues full, five bytes received, the last error a BadLength. -/
def fullState : State :=
  { State.reset with
    session := .receiving [0xF0, 0x00, 0x00, 0x2A, 0x56], txq := List.replicate 5 [0xAA],
    rxq := [ledFrame, ledFrame], err := 0x00001000, lastErr := 12, result := 0x0000C000 }

/-- A state in the middle of the longest entry a queue takes. -/
def sendingState : State :=
  { State.reset with session := .sending (List.replicate 16 0xAA) 15, txq := [[0xAA], List.replicate 16 0xAA] }

/-! ### Well-formedness: one ill-formed operation for each check, and its neighbour that passes (R111 to R113, I31) -/

theorem test_wf_wr_too_wide : (HostOp.wr .flen 0x100000000).wf = false ∧ (HostOp.wr .flen 0xFFFFFFFF).wf = true := by decide
theorem test_wf_bstat_too_wide : (HostOp.bstat 256).wf = false ∧ (HostOp.bstat 255).wf = true := by decide
theorem test_wf_bfschg_too_wide : (HostOp.bfschg 256).wf = false ∧ (HostOp.bfschg 255).wf = true := by decide
theorem test_wf_afeed_byte_too_wide : (HostOp.afeed 256 6).wf = false ∧ (HostOp.afeed 255 6).wf = true := by decide
theorem test_wf_afeed_target_too_wide : (HostOp.afeed 0 256).wf = false ∧ (HostOp.afeed 0 255).wf = true := by decide
theorem test_wf_fset_too_long :
    (HostOp.fset (List.replicate 17 0)).wf = false ∧ (HostOp.fset (List.replicate 16 0)).wf = true := by decide
theorem test_wf_fset_byte_too_wide : (HostOp.fset [0, 256]).wf = false ∧ (HostOp.fset [0, 255]).wf = true := by decide
theorem test_ill_formed_does_not_assemble : assemble (.bstat 256) = none ∧ assembleProgram [.tick, .afeed 0 256] = none := by
  decide

/-! ### The written form of host programs (R111 to R113, programs P2, P3 and P6) -/

theorem test_text_bstat : parseLine "bstat #0x05   ; build" = .op (.bstat 5) := by decide
theorem test_text_afeed : parseLine "afeed #0xF0, #6" = .op (.afeed 0xF0 6) := by decide
theorem test_text_fset : parseLine "fset 0xF0,0,0,0x2A,0x56,0xF7" = .op (.fset [0xF0, 0, 0, 0x2A, 0x56, 0xF7]) := by decide
theorem test_text_wr : parseLine "wr FLEN, #17" = .op (.wr .flen 17) := by decide
theorem test_text_rd : parseLine "rd LAST_ERR" = .op (.rd .lastErr) := by decide
theorem test_text_comment : parseLine "  ; nothing" = .empty := by decide
theorem test_text_too_wide : parseLine "bstat #256" = .error := by decide
theorem test_text_upper_case : parseLine "TICK" = .error := by decide
/-- R113: the expansion of P6's `fset 0xAA`, and of `clrerr`. -/
theorem test_fset_expansion : assemble (.fset [0xAA]) =
    some [.write 0x20 4 0xAA, .write 0x24 4 0, .write 0x28 4 0, .write 0x2C 4 0, .write 0x10 4 1] := by decide
theorem test_clrerr_expansion : assemble .clrerr = some [.write 0x08 4 0x00001FFE] := by decide

/-! ### Decoding: each command's word written out from R100 and R101, and the words that fault (V5.11 to V5.21) -/

-- [31:24] 0, [23:16] B, [15:8] A, [7:0] OPC
theorem test_decode_tick : decode 0b00000000_00000000_00000000_00000001 = .ok .tick := by decide
theorem test_decode_enq : decode 0b00000000_00000000_00000000_00000010 = .ok .enq := by decide
theorem test_decode_pop : decode 0b00000000_00000000_00000000_00000011 = .ok .pop := by decide
theorem test_decode_cksum : decode 0b00000000_00000000_00000000_00010000 = .ok .cksum := by decide
theorem test_decode_bstat : decode 0b00000000_00000000_10000001_00010001 = .ok (.bstat 0x81) := by decide
theorem test_decode_bfschg : decode 0b00000000_00000000_10000001_00010010 = .ok (.bfschg 0x81) := by decide
theorem test_decode_ledst : decode 0b00000000_00000000_00000000_00010011 = .ok .ledst := by decide
theorem test_decode_afeed : decode 0b00000000_00000110_11110000_00100000 = .ok (.afeed 0xF0 6) := by decide
theorem test_decode_opc_00 : decode 0x00000000 = .error .unknownOpc := by decide
theorem test_decode_opc_04 : decode 0x00000004 = .error .unknownOpc := by decide
theorem test_decode_opc_21 : decode 0x00000021 = .error .unknownOpc := by decide
theorem test_decode_opc_FF : decode 0x000000FF = .error .unknownOpc := by decide
theorem test_decode_reserved : decode 0x01000001 = .error .reservedByte := by decide
theorem test_decode_unused_A : decode 0x00000101 = .error .unusedOperand := by decide
theorem test_decode_unused_B : decode 0x00010011 = .error .unusedOperand := by decide
theorem test_decode_afeed_reserved : decode 0x01060020 = .error .reservedByte := by decide
theorem test_decode_bstat_FF : decode 0x0000FF11 = .ok (.bstat 0xFF) := by decide
theorem test_encode_P3 : encode (.afeed 0x7E 6) = 0x00067E20 := by decide
theorem test_table_word : decodeTableWord 32 0x00060020 = some (.afeed 0 6) ∧ decodeTableWord 32 0x00000004 = none := by decide

/-! ### Codec -/

/-- V1.8: the largest staging buffer. -/
theorem test_cksum_sixteen : (nextOf (exec .cksum (staged [0xF0, 1, 2, 3, 4, 5, 6, 7, 8, 9, 10, 11, 12, 13, 0, 0xF7]))).map
    (·.result) = some 0x00010025 := by decide
/-- V1.3: TooShort, in RESULT only. -/
theorem test_cksum_short : (nextOf (exec .cksum (staged [0xF0, 0xF7]))).map (fun t => (t.result, t.err, t.lastErr)) =
    some (0x0000D000, 0, 0) := by decide
/-- V1.11 and the words after it. -/
theorem test_bstat_words : (nextOf (exec (.bstat 0x05) State.reset)).map
    (fun t => (fbufWord t.fbuf 0, fbufWord t.fbuf 1, fbufWord t.fbuf 2, t.flen, t.result)) =
    some (0x000000F0, 0x7B000500, 0x000000F7, 9, 0x0001007B) := by decide
/-- V1.15: bit 7 drops out of the checksum's sum. -/
theorem test_bstat_bit7 : (nextOf (exec (.bstat 0x80) State.reset)).map (·.result) = some 0x00010000 := by decide
/-- V1.18, over an earlier full buffer: the bytes from 7 on keep their values (R136). -/
theorem test_bfschg_keeps_rest : (nextOf (exec (.bfschg 0x01) (staged (List.replicate 16 0x55)))).map
    (fun t => (fbufWord t.fbuf 0, fbufWord t.fbuf 1, fbufWord t.fbuf 2, t.flen, t.result)) =
    some (0x010200F0, 0x55F77D00, 0x55555555, 7, 0x0001007D) := by decide
/-- V1.26: a status of 0 is a result; V1.28 and V1.30. -/
theorem test_ledst : (nextOf (exec .ledst (staged [0xF0, 0, 0, 0, 0, 0xF7]))).map (·.result) = some 0x00010000 ∧
    (nextOf (exec .ledst (staged [0xF0, 0, 1, 0x2A, 0x55, 0xF7]))).map (·.result) = some 0 ∧
    (nextOf (exec .ledst (staged [0xF0, 0, 0, 0x2A, 0x56]))).map (fun t => (t.result, t.err, t.lastErr)) =
      some (0x0000C000, 0x00001000, 12) := by decide

/-! ### Assembler -/

/-- V2.1 and V2.5 at byte 6, V2.8: interior markers. -/
theorem test_update_verdicts :
    update Params.hw [0xF0, 0, 0, 2, 0x7E] 0xF7 6 = .complete [0xF0, 0, 0, 2, 0x7E, 0xF7] ∧
    update Params.hw [0xF0, 0, 0, 2, 0x7D] 0xF6 6 = .invalid .invalidEnd ∧
    update Params.hw [0xF0, 0, 0, 2, 0x7D] 0xF7 6 = .invalid .checksumErr ∧
    update Params.hw [0xF0, 0xF7, 0xF0, 0x80, 0x19] 0xF7 6 = .complete [0xF0, 0xF7, 0xF0, 0x80, 0x19, 0xF7] := by decide
/-- V2.12: the overflow path. -/
theorem test_afeed_overflow :
    (nextOf (exec (.afeed 0xF7 3) (staged [0xF0, 5, 0]))).map (fun t => (t.result, t.flen)) = some (0x00013203, 3) ∧
    (nextOf (exec (.afeed 0xF7 3) (staged [0x11, 5, 0]))).map (fun t => (t.result, t.flen)) = some (0x00011203, 3) := by decide
/-- V2.6: the byte is stored whatever the verdict, and no error is raised; V2.13. -/
theorem test_afeed_invalid_start :
    (nextOf (exec (.afeed 0 6) State.reset)).map (fun t => (t.result, t.flen, t.err)) = some (0x00011201, 1, 0) ∧
    (nextOf (exec (.afeed 0xF0 17) State.reset)).map (fun t => (t.result, t.flen, t.err, t.lastErr)) =
      some (0x0000C000, 0, 0x00001000, 12) := by decide

/-! ### Queues -/

/-- V3.3, V3.4, V3.5. -/
theorem test_enq :
    (nextOf (exec .enq { fullState with flen := 1 })).map (fun t => (t.result, t.txq.length, t.err, t.lastErr)) =
      some (0x00009000, 5, 0x00001200, 9) ∧
    (nextOf (exec .enq fullState)).map (fun t => (t.result, t.lastErr)) = some (0x0000C000, 12) ∧
    (nextOf (exec .enq (staged [0xAA]))).map (fun t => (t.result, t.txq)) =
    some (0x00010001, [[0xAA]]) := by decide
/-- V3.7. -/
theorem test_pop_two : (nextOf (exec .pop fullState)).map (fun t => (t.result, t.operand, t.rxq)) =
    some (0x00010006, ledFrame, [ledFrame]) := by decide
/-- V3.6. -/
theorem test_pop_empty : (nextOf (exec .pop (staged [0xAA]))).map (fun t => (t.result, t.operand)) =
    some (0x00000000, [0xAA]) := by decide

/-- R3, R6: the capacity of TXQ varies with the configuration, in ENQ and in a step of the machine (R215). -/
theorem test_enq_other_capacity :
    (nextOf (execOn { Params.hw with pTxqCap := 7 } .enq { fullState with flen := 1 })).map (·.txq.length) = some 6 ∧
    (nextOf (stepOn { Params.hw with pTxqCap := 1 } { staged [0xAA] with txq := [[1]], inputs := [commandInput 2] })).map
      (fun t => (t.txq, t.lastErr)) = some ([[1]], 9) := by decide
/-- R3, R6: the markers and the inbound length vary with the configuration. -/
theorem test_other_markers_and_length :
    (nextOf (execOn { Params.hw with pStart := 0x01, pEnd := 0x02 } (.bfschg 0) State.reset)).map (·.operand) =
      some [0x01, 0x00, 0x02, 0x00, 0x00, 0x7E, 0x02] ∧
    (nextOf (execOn { Params.hw with pRxLen := 7 } .ledst (staged ledFrame))).map (·.lastErr) = some 12 := by decide

/-! ### Session steps (V4) and TICK -/

/-- V4.11 and V4.12, V4.13: the strict limit, and a late echo. -/
theorem test_echo_limit :
    sessionStep Params.hw {} { inSession (.waitingEcho [0xAA, 0xBB] 0 0) [] with now := 20000 } = .quiescent ∧
    sessionStep Params.hw {} { inSession (.waitingEcho [0xAA, 0xBB] 0 0) [] with now := 20001 } =
      .progress { State.reset with err := 0x00000040, lastErr := 6, now := 20001 } ∧
    sessionStep Params.hw {} { inSession (.waitingEcho [0xAA, 0xBB] 0 0) [.byte 0xAA] with now := 50000 } =
      .progress { State.reset with session := .sending [0xAA, 0xBB] 1, now := 50000 } := by decide
/-- V4.15 and V4.16. -/
theorem test_reply_limit :
    sessionStep Params.hw {} { inSession (.waitingReply 0) [] with now := 100000 } = .quiescent ∧
    sessionStep Params.hw {} { inSession (.waitingReply 0) [] with now := 100001 } =
      .progress { State.reset with err := 0x00000080, lastErr := 7, now := 100001 } := by decide
/-- R175, R279: the elapsed time is counted modulo 2 ^ P_TIMER_BITS; the port is as wide as that. -/
theorem test_timer_wraps : timedOut Params.hw 0 (2 ^ 64 - 20000) 20000 = false ∧
    timedOut Params.hw 1 (2 ^ 64 - 20000) 20000 = true ∧
    State.readNow { Params.hw with pTimerBits := 16 } { State.reset with now := 65537 } = 1 := by decide
/-- R279: with a timer of 16 bits, a wait of 65536 + 10 microseconds is taken for one of 10, and its timeout is hidden. -/
theorem test_narrow_timer_hides_timeout :
    sessionStep { Params.hw with pTimerBits := 16 } {} { inSession (.waitingEcho [0xAA, 0xBB] 0 0) [] with now := 65546 } =
      .quiescent ∧
    sessionStep { Params.hw with pTimerBits := 64 } {} { inSession (.waitingEcho [0xAA, 0xBB] 0 0) [] with now := 65546 } ≠
      .quiescent := by decide
/-- V4.19, V4.22. -/
theorem test_receive :
    sessionStep Params.hw {} { fullState with line := { rx := [.byte 0xF7] } } =
      .progress { fullState with session := .idle, err := 0x00001400, lastErr := 10 } ∧
    sessionStep Params.hw {} (inSession (.receiving [0xF0, 0, 0, 0x2A, 0x57]) [.byte 0xF7]) =
      .progress { State.reset with err := 0x00000010, lastErr := 4 } := by decide
/-- V4.6, V4.9: a write error, and an echo that differs, with its byte consumed. -/
theorem test_send_errors :
    sessionStep Params.hw { write := .ioErr } (inSession (.sending [0xAA, 0xBB] 1) []) =
      .progress { State.reset with line := { handed := [0xBB] }, err := 0x00000100, lastErr := 8 } ∧
    sessionStep Params.hw {} (inSession (.waitingEcho [0xAA, 0xBB] 0 0) [.byte 0xAB, .byte 0x01]) =
      .progress { State.reset with line := { rx := [.byte 0x01] }, err := 0x00000020, lastErr := 5 } := by decide
/-- P5's TICK: a corrupted frame, then a stray byte. -/
theorem test_tick_P5 :
    (nextOf (exec .tick (inSession .idle ([0xF0, 0, 0, 0x2A, 0x55, 0xF7, 0].map RxItem.byte)))).map
      (fun t => (t.session, t.err, t.lastErr, t.result)) = some (.idle, 0x00000012, 1, 0x00010001) := by decide
/-- V4.25: with P_REPOLL, and the echo of AA readable after the wait. -/
theorem test_tick_repoll :
    (nextOf (runTick { Params.hw with pRepoll := true }
      { State.reset with txq := [[0xAA, 0xBB]], line := { script := [{}, {}, {}, { arrive := [.byte 0xAA] }] } })).map
      (fun t => (t.session, t.status, t.result, t.line.handed)) =
    some (.waitingEcho [0xAA, 0xBB] 1 320, 0x00000012, 0x00010001, [0xAA, 0xBB]) := by decide

/-! ### Steps -/

/-- V5.20, as the first step after reset: AFEED with a target of 255 is BadLength. -/
theorem test_step_after_reset : (nextOf (step (State.reset.withFetchWord 32 0x00FFFF20))).map
    (fun t => (t.result, t.err, t.inputs)) = some (0x0000C000, 0x00001000, []) := by decide
/-- V5.16: BadCommand. -/
theorem test_step_bad_command : (nextOf (step (pending [commandInput 0x00000101]))).map
    (fun t => (t.result, t.err, t.lastErr)) = some (0x0000B000, 0x00000800, 11) := by decide
/-- V5.10. -/
theorem test_refused_access : nextOf (step (pending [.write 0 1 1])) = none ∧ nextOf (step (pending [.read 2 4])) = none ∧
    nextOf (step (pending [.read 0x40 4])) = none ∧ nextOf (step (pending [.read (-4) 4])) = none := by decide
/-- V5.3 to V5.7. -/
theorem test_register_writes :
    (nextOf (step { staged [1, 2, 3, 4] with inputs := [.write 0x10 4 0x80000004] })).map
      (fun t => (t.flen, t.err, t.lastErr, t.result)) = some (4, 0x00001000, 12, 0) ∧
    (nextOf (step (pending [.write 0x24 4 0x44332211]))).map (fun t => t.fbuf.toList.take 9) =
      some [0, 0, 0, 0, 0x11, 0x22, 0x33, 0x44, 0] ∧
    (nextOf (step { pending [.write 0x08 4 0x00000002] with err := 0x00001812 })).map (·.err) = some 0x00001810 := by decide
/-- R52: the fields of STATUS. -/
theorem test_status : fullState.status = 0x00250504 ∧ sendingState.status = 0x000200F1 := by decide

/-! ### Witnesses: for each statement with hypotheses, a state and operands that meet them together

Where a statement has clauses over one input, each clause has its values at the ends of its range. P_BASE is open, so no
address below the window is known to exist: that clause of `UnadmittedAccessFaults` is met only where P_BASE is not 0. -/

theorem fullState_good : fullState.Good := by
  constructor <;> first | decide | skip
  · exact ⟨by decide, .inr rfl⟩
  · intro f hf
    have : f = ledFrame := by simpa [fullState] using hf
    subst this
    exact ⟨rfl, ⟨by decide, rfl, rfl, by decide⟩⟩

theorem sendingState_good : sendingState.Good := by
  constructor <;> first | decide | skip
  · exact ⟨by decide, by decide⟩
  · intro f hf; exact absurd hf (by simp [sendingState, State.reset])

theorem ledFrame_isFrame : IsFrame Params.hw ledFrame := ⟨by decide, rfl, rfl, by decide⟩
theorem shortFrame_isFrame : IsFrame Params.hw [0xF0, 0x00, 0xF7] := ⟨by decide, rfl, rfl, by decide⟩

theorem witness_EncodeDecodeRoundTrip : ∃ (w : Word) (i : Instr), decode w = .ok i := ⟨0x0006F020, .afeed 0xF0 6, by decide⟩

theorem witness_WordSelectsOneRowOrFaults : ∃ (w : Word) (s : State) (rest : List Input),
    (∀ r ∈ opcodeMap, w &&& r.mask ≠ r.matchBits) ∧ s.inputs = writeAt Config.pBase 4 w :: rest :=
  ⟨0x01060020, pending [writeAt Config.pBase 4 0x01060020], [], by decide, rfl⟩

theorem witness_StepRunsDecodedCommand : ∃ (s : State) (w : Word) (i : Instr) (rest : List Input),
    s.inputs = writeAt Config.pBase 4 w :: rest ∧ decode w = .ok i :=
  ⟨pending [writeAt Config.pBase 4 0x00000511], 0x00000511, .bstat 5, [], rfl, by decide⟩

theorem witness_UnadmittedAccessFaults_size : ∃ (s : State) (addr size : Nat) (rest : List Input),
    size ≠ 4 ∧ s.inputs = readAt addr size :: rest :=
  ⟨pending [readAt Config.pBase 1], Config.pBase, 1, [], by decide, rfl⟩
theorem witness_UnadmittedAccessFaults_alignment : ∃ (s : State) (addr size : Nat) (v : Word) (rest : List Input),
    ((addr : Int) - Config.pBase) % 4 ≠ 0 ∧ s.inputs = writeAt addr size v :: rest :=
  ⟨pending [writeAt (Config.pBase + 2) 4 1], Config.pBase + 2, 4, 1, [], by simp, rfl⟩
theorem witness_UnadmittedAccessFaults_above : ∃ (s : State) (addr size : Nat) (v : Word) (rest : List Input),
    Config.pBase + 0x40 ≤ addr ∧ s.inputs = writeAt addr size v :: rest :=
  ⟨pending [writeAt (Config.pBase + 0x40) 4 1], Config.pBase + 0x40, 4, 1, [], le_refl _, rfl⟩

theorem witness_ReadsHaveNoSideEffect : ∀ k ∈ [0, 15], ∃ (s : State) (rest : List Input),
    k < 16 ∧ s.inputs = readAt (Config.pBase + 4 * k) 4 :: rest := by
  intro k hk
  exact ⟨pending [readAt (Config.pBase + 4 * k) 4], [], by revert k; decide, rfl⟩

theorem witness_RegistersReadTheirState : ∀ off ∈ [0x00, 0x08, 0x0C, 0x10, 0x14, 0x18, 0x3C],
    ∃ (s : State) (rest : List Input) (v : Word), s.inputs = readAt (Config.pBase + off) 4 :: rest ∧
      ((off = 0x00 ∧ v = 0) ∨ (off = 0x08 ∧ v = s.err) ∨ (off = 0x0C ∧ v = s.result) ∨
        (off = 0x10 ∧ v = BitVec.ofNat 32 s.flen.val) ∨ (off = 0x14 ∧ v = BitVec.ofNat 32 s.lastErr.toNat) ∨
        (off ∈ [0x18, 0x1C, 0x30, 0x34, 0x38, 0x3C] ∧ v = 0)) := by
  intro off h
  refine ⟨pending [readAt (Config.pBase + off) 4], [], 0, rfl, ?_⟩
  revert off
  decide

theorem witness_StatusShowsSessionAndCounts : (∃ s : State, s.Good ∧ s.session = .idle) ∧
    (∃ (s : State) (rest : List Input) (buf : List Byte), s.Good ∧ s.session = .sending buf 15 ∧
      s.inputs = readAt (Config.pBase + 0x04) 4 :: rest) ∧
    (∃ (s : State) (rest : List Input) (v : Word), s.Good ∧ s.inputs = writeAt (Config.pBase + 0x04) 4 v :: rest) ∧
    ∃ (s : State) (rest : List Input) (acc : List Byte), s.Good ∧ s.session = .receiving acc ∧ acc.length = 5 ∧
      s.txq.length = 5 ∧ s.rxq.length = 2 ∧ s.inputs = readAt (Config.pBase + 0x04) 4 :: rest :=
  ⟨⟨{ fullState with session := .idle }, { fullState_good with session := trivial }, rfl⟩,
    ⟨{ sendingState with inputs := [readAt (Config.pBase + 0x04) 4] }, [], _, { sendingState_good with }, rfl, rfl⟩,
    ⟨{ fullState with inputs := [writeAt (Config.pBase + 0x04) 4 7] }, [], 7, { fullState_good with }, rfl⟩,
    ⟨{ fullState with inputs := [readAt (Config.pBase + 0x04) 4] }, [], _, { fullState_good with }, rfl, rfl, rfl, rfl, rfl⟩⟩

theorem witness_ReservedAndReadOnlyOffsets : (∀ off ∈ [0x18, 0x3C], ∃ (s : State) (rest : List Input),
      off ∈ [0x18, 0x1C, 0x30, 0x34, 0x38, 0x3C] ∧ s.inputs = readAt (Config.pBase + off) 4 :: rest) ∧
    ∀ off ∈ [0x18, 0x3C, 0x04, 0x0C, 0x14], ∃ (s : State) (v : Word) (rest : List Input),
      (off ∈ [0x18, 0x1C, 0x30, 0x34, 0x38, 0x3C] ∨ off ∈ [0x04, 0x0C, 0x14]) ∧
      s.inputs = writeAt (Config.pBase + off) 4 v :: rest := by
  refine ⟨fun off h => ⟨pending [readAt (Config.pBase + off) 4], [], ?_, rfl⟩,
    fun off h => ⟨pending [writeAt (Config.pBase + off) 4 1], 1, [], ?_, rfl⟩⟩ <;> (revert off; decide)

theorem witness_FbufWordsAreLittleEndian : ∀ k : Fin 4, (∃ (s : State) (rest : List Input),
      s.inputs = readAt (Config.pBase + 0x20 + 4 * k.val) 4 :: rest) ∧
    ∃ (s : State) (v : Word) (rest : List Input), s.inputs = writeAt (Config.pBase + 0x20 + 4 * k.val) 4 v :: rest :=
  fun k => ⟨⟨pending [readAt (Config.pBase + 0x20 + 4 * k.val) 4], [], rfl⟩,
    ⟨pending [writeAt (Config.pBase + 0x20 + 4 * k.val) 4 0x44332211], _, [], rfl⟩⟩

theorem witness_FlenReadsAndWrites : (∃ (s : State) (rest : List Input), s.inputs = readAt (Config.pBase + 0x10) 4 :: rest) ∧
    (∀ n ∈ [0, 16], ∃ (s : State) (v : Word) (rest : List Input) (m : Fin 17),
      s.inputs = writeAt (Config.pBase + 0x10) 4 v :: rest ∧ v.toNat = n ∧ m.val = n) ∧
    ∀ v ∈ [17#32, 0x80000004#32, 0xFFFFFFFF#32], ∃ (s : State) (rest : List Input),
      s.inputs = writeAt (Config.pBase + 0x10) 4 v :: rest ∧ 16 < v.toNat := by
  refine ⟨⟨pending [readAt (Config.pBase + 0x10) 4], [], rfl⟩, ?_, ?_⟩
  · intro n h
    refine ⟨pending [writeAt (Config.pBase + 0x10) 4 (BitVec.ofNat 32 n)], _, [], Fin.ofNat 17 n, rfl, ?_⟩
    revert n; decide
  · intro v h
    refine ⟨pending [writeAt (Config.pBase + 0x10) 4 v], [], rfl, ?_⟩
    simp only [List.mem_cons, List.not_mem_nil, or_false] at h
    rcases h with rfl | rfl | rfl <;> simp

theorem witness_ErrClearsOnlyByHostWrite : (∃ (s : State) (v : Word) (rest : List Input),
      s.Good ∧ s.err ≠ 0 ∧ s.inputs = writeAt (Config.pBase + 0x08) 4 v :: rest) ∧
    ∃ (s t : State), s.err ≠ 0 ∧ s.line.NoReset ∧ exec .tick s = .next t :=
  ⟨⟨{ fullState with inputs := [writeAt (Config.pBase + 0x08) 4 0xFFFFFFFF] }, _, [], { fullState_good with }, by decide, rfl⟩,
    ⟨fullState, { fullState with result := 0x00010000 }, by decide, by simp [Line.NoReset, fullState, State.reset], rfl⟩⟩

theorem witness_FsetLoadsStagingBuffer : ∀ n ∈ [0, 16], ∃ (s : State) (bs : List Nat) (a rest : List Input), bs.length = n ∧
    bs.length ≤ 16 ∧ (∀ b ∈ bs, b < 256) ∧ assemble (.fset bs) = some a ∧ s.inputs = a ++ rest ∧ rest ≠ [] := by
  intro n h
  have hn : n ≤ 16 := by revert n; decide
  have hb : ∀ b ∈ List.replicate n 255, b < 256 := by intro b hb; rw [List.eq_of_mem_replicate hb]; decide
  refine ⟨pending (expandOp (.fset (List.replicate n 255)) ++ [commandInput 2]), List.replicate n 255,
    expandOp (.fset (List.replicate n 255)), [commandInput 2], by simp, by simpa, hb, ?_, rfl, by simp⟩
  simp [assemble, HostOp.wf, hn, fitsByte]

theorem witness_ChecksumProperties : ∃ f g : List Byte, 3 ≤ f.length ∧ f.length = 3 ∧ g.length = f.length ∧ g ≠ f ∧
    ∀ i, 1 ≤ i → i + 3 ≤ f.length → g[i]? = f[i]? :=
  ⟨[0xF0, 0, 0xF7], [1, 2, 3], by decide, rfl, rfl, by decide, fun i h1 h2 => absurd h2 (by simp; omega)⟩

theorem witness_LedstExtractsStatus : (∃ s : State, s.flen.val = 6 ∧ s.fbuf[1] = 0 ∧ s.fbuf[2] = 0) ∧
    (∃ s : State, s.flen.val = 6 ∧ s.fbuf[1] = 0 ∧ s.fbuf[2] ≠ 0) ∧
    ∀ n ∈ [0, 5, 7, 16], ∃ s : State, s.flen.val = n ∧ s.flen.val ≠ 6 := by
  refine ⟨⟨staged ledFrame, by decide⟩, ⟨staged [0xF0, 0, 1, 0x2A, 0x55, 0xF7], by decide⟩, fun n h => ?_⟩
  refine ⟨{ State.reset with flen := Fin.ofNat 17 n }, ?_⟩
  revert n; decide

theorem witness_CodecCommandsArePure : ∀ i ∈ [Instr.cksum, .ledst, .bstat 1, .bfschg 1], ∃ s s' : State,
    (i = .cksum ∨ i = .ledst ∨ (∃ fs, i = .bstat fs) ∨ (∃ fs, i = .bfschg fs)) ∧
      s ≠ s' ∧ s.flen.val ≠ 6 ∧ s'.fbuf = s.fbuf ∧ s'.flen = s.flen :=
  fun i hi => ⟨State.reset, fullState, by simp at hi; rcases hi with rfl | rfl | rfl | rfl <;> simp,
    by decide, by decide, rfl, rfl⟩

/-- The six-byte case: LEDST from two states that differ, without a fault. -/
theorem witness_CodecCommandsArePure_six : ∃ s s' : State, s ≠ s' ∧ s.flen.val = 6 ∧ s'.fbuf = s.fbuf ∧ s'.flen = s.flen :=
  ⟨staged ledFrame, { staged ledFrame with err := 0x00001000, lastErr := 12 }, by decide, by decide, rfl, rfl⟩

theorem witness_UpdateReportsFirstFailingCheck : ∃ (acc : List Byte) (b : Byte) (T : Nat), 3 ≤ T ∧ acc.length = T ∧ b = 0 :=
  ⟨[0xF0, 5, 0], 0, 3, by decide, rfl, rfl⟩

theorem witness_UpdateCompletesExactlyFrames : ∃ (acc a : List Byte) (b : Byte) (T : Nat), 3 ≤ T ∧
    update Params.hw acc b T = .complete a ∧ IsFrame Params.hw a :=
  ⟨[0xF0, 0], [0xF0, 0, 0xF7], 0xF7, 3, by decide, by decide, shortFrame_isFrame⟩

theorem witness_FrameRoundTripsThroughAssembler : ∀ f ∈ [[0xF0, 0x00, 0xF7], ledFrame],
    IsFrame Params.hw f ∧ 0 < f.length ∧ f.length - 1 < f.length := by
  intro f hf
  simp only [List.mem_cons, List.not_mem_nil, or_false] at hf
  rcases hf with rfl | rfl
  · exact ⟨shortFrame_isFrame, by decide⟩
  · exact ⟨ledFrame_isFrame, by decide⟩

theorem witness_FreshAccumulatorNeverTooLong : ∃ (acc acc' : List Byte) (b' : Byte) (T : Nat), 3 ≤ T ∧
    acc.length + 1 = T ∧ update Params.hw acc' b' T = .incomplete acc :=
  ⟨[0xF0, 0], [0xF0], 0, 3, by decide, rfl, by decide⟩

theorem witness_AfeedAppendsAndClassifies : (∀ t ∈ [0#8, 2#8, 17#8, 255#8], t.toNat < 3 ∨ 16 < t.toNat) ∧
    (∀ t ∈ [3#8, 16#8], 3 ≤ t.toNat ∧ t.toNat ≤ 16) ∧ (State.reset.flen.val < (3#8).toNat) ∧
    ¬ ((staged [0xF0, 5, 0]).flen.val < (3#8).toNat) := by decide

theorem witness_EnqQueuesStagingBytes : (∃ s : State, s.txq.length ≤ 5 ∧ s.flen.val = 0) ∧
    (∃ s : State, s.txq.length ≤ 5 ∧ s.flen.val ≠ 0 ∧ s.txq.length = 5) ∧
    (∃ s : State, s.txq.length ≤ 5 ∧ s.flen.val ≠ 0 ∧ s.txq.length = 4) ∧
    ∃ s : State, s.txq.length ≤ 5 ∧ s.flen.val = 16 ∧ s.txq.length = 0 :=
  ⟨⟨State.reset, by decide⟩, ⟨{ fullState with flen := 1 }, by decide⟩,
    ⟨{ fullState with flen := 1, txq := List.replicate 4 [0xAA] }, by decide⟩, ⟨{ State.reset with flen := 16 }, by decide⟩⟩

theorem witness_EnqOverflowKeepsFirstEntries : ∀ c ∈ [Params.hw, { Params.hw with pTxqCap := 7 }],
    (∃ (s : State) (m : Nat), s.flen.val ≠ 0 ∧ s.txq.length ≤ c.pTxqCap ∧ s.txq.length + m = c.pTxqCap ∧ m ≠ 0) ∧
    ∃ (s : State) (m : Nat), s.flen.val ≠ 0 ∧ s.txq.length ≤ c.pTxqCap ∧ s.txq.length + m = c.pTxqCap + 1 := by
  intro c h
  refine ⟨⟨{ State.reset with flen := 7 }, c.pTxqCap, ?_⟩, ⟨{ State.reset with flen := 7 }, c.pTxqCap + 1, ?_⟩⟩ <;>
    (revert c; decide)

theorem witness_PopMovesOldestFrame : (∃ s : State, s.rxq = []) ∧
    (∃ (s : State) (f : List Byte) (rest : List (List Byte)), s.rxq = f :: rest ∧ f.length = 6 ∧ f.length ≤ 16) ∧
    ∃ (s : State) (f : List Byte) (rest : List (List Byte)), s.rxq = f :: rest ∧ f.length = 16 ∧ f.length ≤ 16 :=
  ⟨⟨State.reset, rfl⟩, ⟨fullState, ledFrame, [ledFrame], by decide⟩,
    ⟨{ State.reset with rxq := [List.replicate 16 0xAA] }, _, [], rfl, by decide⟩⟩

theorem witness_PoppedFrameIsValidated : ∃ (s : State) (f : List Byte) (rest : List (List Byte)), s.Good ∧ s.rxq = f :: rest :=
  ⟨fullState, ledFrame, [ledFrame], fullState_good, rfl⟩

theorem witness_IdleStepPrefersReceiving : (∃ s : State, s.session = .idle ∧ s.txq ≠ [] ∧ s.line.rx ≠ []) ∧
    (∃ (m : Moment) (s : State) (buf : List Byte) (rest : List (List Byte)), s.session = .idle ∧ s.line.rx = [] ∧
      s.txq = buf :: rest ∧ m.busy = false) ∧
    (∃ s : State, s.session = .idle ∧ s.line.rx = [] ∧ s.txq = []) ∧
    ∃ (m : Moment) (s : State), s.session = .idle ∧ s.line.rx = [] ∧ s.txq ≠ [] ∧ m.busy = true :=
  ⟨⟨{ inSession .idle [.ioErr] with txq := [[1]] }, by decide⟩, ⟨{}, { State.reset with txq := [[1]] }, [1], [], by decide⟩,
    ⟨State.reset, by decide⟩, ⟨{ busy := true }, { State.reset with txq := [[1]] }, by decide⟩⟩

theorem witness_SendingStepWritesCursorByte : ∀ a ∈ [WriteAnswer.ok, .ioErr, .never, .heldToReset],
    ∃ (m : Moment) (s : State) (buf : List Byte), 15 < buf.length ∧ s.session = .sending buf 15 ∧ m.write = a :=
  fun a _ => ⟨{ write := a }, sendingState, List.replicate 16 0xAA, by decide, rfl, rfl⟩

theorem witness_EchoStepVerifiesByte : (∃ (s : State) (rest : List RxItem),
      s.session = .waitingEcho [0xAA] 0 0 ∧ s.line.rx = .ioErr :: rest) ∧
    (∃ (s : State) (v : Byte) (rest : List RxItem),
      s.session = .waitingEcho [0xAA] 0 0 ∧ s.line.rx = .byte v :: rest ∧ v ≠ 0xAA) ∧
    (∃ (s : State) (rest : List RxItem), s.session = .waitingEcho [0xAA] 0 0 ∧ s.line.rx = .byte 0xAA :: rest) ∧
    ∃ (s : State) (rest : List RxItem), s.session = .waitingEcho [0xAA, 0xBB] 0 0 ∧ s.line.rx = .byte 0xAA :: rest :=
  ⟨⟨inSession _ [.ioErr], [], rfl, rfl⟩, ⟨inSession _ [.byte 0xAB], 0xAB, [], rfl, rfl, by decide⟩,
    ⟨inSession _ [.byte 0xAA], [], rfl, rfl⟩, ⟨inSession _ [.byte 0xAA], [], rfl, rfl⟩⟩

theorem witness_EchoStepTimesOutStrictly : ∀ now ∈ [20000, 20001], ∃ s : State,
    s.session = .waitingEcho [0xAA] 0 0 ∧ s.line.rx = [] ∧ s.now = now :=
  fun now _ => ⟨{ inSession (.waitingEcho [0xAA] 0 0) [] with now := now }, rfl, rfl, rfl⟩

theorem witness_ReplyStepReceivesOrTimesOut : ∀ now ∈ [100000, 100001], ∃ s : State,
    s.session = .waitingReply 0 ∧ s.line.rx = [] ∧ s.now = now :=
  fun now _ => ⟨{ inSession (.waitingReply 0) [] with now := now }, rfl, rfl, rfl⟩

theorem witness_ReplyStepReceivesOrTimesOut_readable : ∃ s : State,
    s.session = .waitingReply 0 ∧ s.line.rx = [.byte 0xF0] ∧ s.now = 100001 :=
  ⟨{ inSession (.waitingReply 0) [.byte 0xF0] with now := 100001 }, rfl, rfl, rfl⟩

theorem witness_TimerWrapHidesWait : ∀ waited ∈ [20000, 20001, 100000, 100001, 2 ^ 64 - 1, 2 ^ 64],
    (∃ s : State, s.now = 5 + waited ∧ s.line.rx = [] ∧
      s.session = .waitingEcho [0xAA] 0 (5 % 2 ^ Params.hw.pTimerBits)) ∧
    ∃ s : State, s.now = 5 + waited ∧ s.line.rx = [] ∧ s.session = .waitingReply (5 % 2 ^ Params.hw.pTimerBits) :=
  fun waited _ => ⟨⟨{ inSession (.waitingEcho [0xAA] 0 (5 % 2 ^ Params.hw.pTimerBits)) [] with now := 5 + waited }, rfl, rfl, rfl⟩,
    ⟨{ inSession (.waitingReply (5 % 2 ^ Params.hw.pTimerBits)) [] with now := 5 + waited }, rfl, rfl, rfl⟩⟩

theorem witness_ReceivingStepClassifiesByte :
    (∃ s : State, s.session = .receiving [0xF0] ∧ s.line.rx = []) ∧
    (∃ (s : State) (rest : List RxItem), s.session = .receiving [0xF0] ∧ s.line.rx = .ioErr :: rest) ∧
    (∃ (s : State) (acc : List Byte) (v : Byte) (rest : List RxItem) (acc' : List Byte), s.session = .receiving acc ∧
      s.line.rx = .byte v :: rest ∧ update Params.hw acc v 6 = .incomplete acc') ∧
    (∀ n ∈ [1, 2], ∃ (s : State) (acc : List Byte) (v : Byte) (rest : List RxItem) (f : List Byte), s.session = .receiving acc ∧
      s.line.rx = .byte v :: rest ∧ update Params.hw acc v 6 = .complete f ∧ s.rxq.length = n) ∧
    ∀ p ∈ [([0x00#8], InvalidReason.invalidStart), ([0xF0, 0, 0, 2, 0x7E, 0xF6], .invalidEnd),
        ([0xF0, 0, 0, 2, 0x7D, 0xF7], .checksumErr)],
      ∃ (s : State) (v : Byte) (rest : List RxItem), s.session = .receiving p.1.dropLast ∧
        s.line.rx = .byte v :: rest ∧ update Params.hw p.1.dropLast v 6 = .invalid p.2 := by
  refine ⟨⟨inSession _ [], rfl, rfl⟩, ⟨inSession _ [.ioErr], [], rfl, rfl⟩,
    ⟨inSession (.receiving []) [.byte 0xF0], [], 0xF0, [], [0xF0], rfl, rfl, by decide⟩, fun n h => ?_, fun p h => ?_⟩
  · refine ⟨{ fullState with line := { rx := [.byte 0xF7] }, rxq := List.replicate n ledFrame }, _, _, [], ledFrame, rfl, rfl,
      by decide, by simp⟩
  · refine ⟨inSession (.receiving p.1.dropLast) [.byte (p.1.getLastD 0)], _, [], rfl, rfl, ?_⟩
    revert p; decide

theorem quiet_silent : ({} : Line).SilentNext := ⟨rfl, rfl, rfl, rfl⟩
theorem quiet_noReset (rx : List RxItem) (handed : List Byte) : ({ rx := rx, handed := handed } : Line).NoReset := by
  intro m hm; exact absurd hm (by simp)

theorem witness_ReceivingNeverTimesOut : ∃ (s : State) (acc : List Byte), s.session = .receiving acc ∧ acc ≠ [] ∧ s.line.SilentNext :=
  ⟨fullState, _, rfl, by decide, quiet_silent⟩

/-- A step that raises an error recorded before, and one that raises none. -/
theorem witness_SessionErrorsReturnToIdle :
    (∃ s t : State, sessionStep Params.hw {} s = .progress t ∧ s.err = 0x00000020 ∧ s.lastErr = 5 ∧ s.SameErrors t ∧
      ∃ clean : State, sessionStep Params.hw {} { s with err := 0, lastErr := 0 } = .progress clean ∧ clean.lastErr = 5) ∧
    ∃ (s t : State), sessionStep Params.hw {} s = .progress t ∧ t.session ≠ .idle :=
  ⟨⟨{ inSession (.waitingEcho [0xAA] 0 0) [.byte 0xAB] with err := 0x00000020, lastErr := 5 }, _, rfl, rfl, rfl,
      ⟨by decide, by decide⟩, _, rfl, by decide⟩,
    ⟨inSession .idle [.byte 0], _, rfl, by decide⟩⟩

theorem witness_SendsStartFromIdleOnly :
    (∃ (m : Moment) (s t : State), sessionStep Params.hw m s = .progress t ∧ t.txq ≠ s.txq ∧ t.session = .sending [1] 0) ∧
    (∃ (m : Moment) (s t : State), sessionStep Params.hw m s = .progress t ∧ t.session = .sending [1, 2] 1) ∧
    (∃ (m : Moment) (s t : State), sessionStep Params.hw m s = .progress t ∧ t.session = .waitingEcho [1, 2] 1 0) ∧
    ∃ (m : Moment) (s t : State), sessionStep Params.hw m s = .progress t ∧ t.session = .waitingReply 0 :=
  ⟨⟨{}, { State.reset with txq := [[1]] }, { State.reset with session := .sending [1] 0 }, by decide, by decide, rfl⟩,
    ⟨{}, inSession (.waitingEcho [1, 2] 0 0) [.byte 1], { State.reset with session := .sending [1, 2] 1 }, by decide, rfl⟩,
    ⟨{}, inSession (.sending [1, 2] 1) [],
      { State.reset with session := .waitingEcho [1, 2] 1 0, line := { handed := [2] } }, by decide, rfl⟩,
    ⟨{}, inSession (.waitingEcho [1, 2] 1 0) [.byte 2], { State.reset with session := .waitingReply 0 }, by decide, rfl⟩⟩

theorem witness_OnlyFramesEnterReceiveQueue : ∃ (m : Moment) (s t : State), 3 ≤ Params.hw.pRxLen ∧
    sessionStep Params.hw m s = .progress t ∧ t.rxq ≠ s.rxq :=
  ⟨{}, { fullState with line := { rx := [.byte 0xF7] }, rxq := [ledFrame] },
    { fullState with line := {}, session := .idle }, by decide, by decide, by decide⟩

theorem witness_TickRunsStepsUntilQuiescent : ∃ s t : State, s.line.NoReset ∧ s.line.ending = .quiet ∧
    runTick Params.hw s = .next t :=
  ⟨fullState, { fullState with result := 0x00010000 }, quiet_noReset _ _, rfl, rfl⟩

theorem witness_TickEndsOnLiveLine : ∃ s : State, s.Good ∧ s.line.Live :=
  ⟨fullState, fullState_good, rfl, fun m hm => absurd hm (by simp [fullState, State.reset])⟩

theorem witness_TickReportsProgress : (∃ s t : State, s.line.NoReset ∧ exec .tick s = .next t ∧
      sessionStep Params.hw s.line.nextMoment s.beginStep = .quiescent) ∧
    ∃ s t : State, s.line.NoReset ∧ exec .tick s = .next t ∧
      sessionStep Params.hw s.line.nextMoment s.beginStep ≠ .quiescent :=
  ⟨⟨fullState, { fullState with result := 0x00010000 }, quiet_noReset _ _, rfl, by decide⟩,
    ⟨inSession .idle [.byte 0], { State.reset with err := 2, lastErr := 1, result := 0x00010001 }, quiet_noReset _ _, rfl, by decide⟩⟩

theorem witness_TickEndsQuiescent : ∃ s t : State, s.line.NoReset ∧ exec .tick s = .next t ∧ t.session = .idle ∧ t.txq ≠ [] :=
  ⟨{ State.reset with txq := [[1]], line := { script := [{ busy := true }] } },
    { State.reset with txq := [[1]], result := 0x00010000 }, by simp [Line.NoReset], rfl, rfl, by decide⟩

theorem witness_TickKeepsStagingBuffer : ∃ s t : State, s.line.NoReset ∧ exec .tick s = .next t :=
  ⟨fullState, { fullState with result := 0x00010000 }, quiet_noReset _ _, rfl⟩

theorem witness_OnlyTickRunsSession : ∃ i : Instr, i ≠ .tick := ⟨.enq, by decide⟩

theorem witness_LastErrNamesSetBit : ∃ (i : Instr) (s t : State), s.line.NoReset ∧ exec i s = .next t ∧ t.lastErr ≠ s.lastErr :=
  ⟨.enq, State.reset, commandFault .badLength State.reset, quiet_noReset _ _, rfl, by decide⟩

/-- From Idle with an entry queued, and from WaitingEcho with the echo of a byte that is not the last: the next write is held. -/
theorem witness_UnacceptedWriteHoldsTick :
    (∃ s u : State, s.session = .idle ∧ TickReaches Params.hw s u ∧ u.session = .sending [1, 2] 0 ∧
      u.line.flooding = false ∧ u.line.nextMoment.reset = false ∧ u.line.nextMoment.write = .never) ∧
    ∃ s u : State, s.session = .waitingEcho [1, 2] 0 0 ∧ TickReaches Params.hw s u ∧ u.session = .sending [1, 2] 1 ∧
      u.line.flooding = false ∧ u.line.nextMoment.reset = false ∧ u.line.nextMoment.write = .never :=
  ⟨⟨{ State.reset with txq := [[1, 2]], line := { script := [{}, { write := .never }] } },
      { State.reset with session := .sending [1, 2] 0, line := { script := [{ write := .never }] } },
      rfl, .later _ _ _ rfl (by decide) (.here _), rfl, by decide⟩,
    ⟨{ State.reset with
        session := .waitingEcho [1, 2] 0 0, line := { rx := [.byte 1], script := [{}, { write := .never }] } },
      { State.reset with session := .sending [1, 2] 1, line := { script := [{ write := .never }] } },
      rfl, .later _ _ _ rfl (by decide) (.here _), rfl, by decide⟩⟩

theorem witness_FloodingLineHoldsTick : ∀ a ∈ [WriteAnswer.ok, .ioErr], ∃ s : State, s.Good ∧ s.line.ending = .floods ∧
    s.line.script ≠ [] ∧
    ∀ m ∈ s.line.script, m.reset = false ∧ m.write = a ∧ m.write ≠ .never ∧ m.write ≠ .heldToReset ∧ m.arrive ≠ [] := by
  intro a h
  refine ⟨{ fullState with line := { script := [{ arrive := [.byte 0], write := a }], ending := .floods } },
    { fullState_good with }, ?_⟩
  revert a
  decide

theorem witness_ResetAbandonsTick :
    (∃ s u : State, TickReaches Params.hw s u ∧ u ≠ s ∧ u.line.flooding = false ∧ u.line.nextMoment.reset = true) ∧
    ∃ s u : State, TickReaches Params.hw s u ∧ u.line.flooding = false ∧ u.session = .sending [1] 0 ∧
      u.line.nextMoment.reset = false ∧ u.line.nextMoment.write = .heldToReset :=
  ⟨⟨{ State.reset with txq := [[1]], line := { script := [{}, { reset := true }] } },
      { State.reset with session := .sending [1] 0, line := { script := [{ reset := true }] } },
      .later _ _ _ rfl (by decide) (.here _), by decide⟩,
    ⟨{ State.reset with txq := [[1]], line := { script := [{}, { write := .heldToReset }] } },
      { State.reset with session := .sending [1] 0, line := { script := [{ write := .heldToReset }] } },
      .later _ _ _ rfl (by decide) (.here _), by decide⟩⟩

theorem witness_EchoedEntryIsSentWhole : ∃ (s : State) (buf : List Byte) (rest : List (List Byte)),
    s.session = .idle ∧ s.txq = buf :: rest ∧ buf ≠ [] ∧ s.line.rx = [] ∧ s.line.script = echoScript buf ∧
      s.line.ending = .quiet :=
  ⟨{ State.reset with txq := [[0xAA, 0xBB]], line := { script := echoScript [0xAA, 0xBB] } }, [0xAA, 0xBB], [], rfl, rfl,
    by decide, rfl, rfl, rfl⟩

theorem witness_WaitingFrameIsReceived : ∀ n ∈ [1, 2], ∃ (s : State) (f : List Byte), s.session = .idle ∧ s.txq = [] ∧
    s.line = { rx := f.map RxItem.byte, handed := s.line.handed } ∧ f.length = 6 ∧ IsFrame Params.hw f ∧ s.rxq.length = n :=
  fun n _ => ⟨{ inSession .idle (ledFrame.map RxItem.byte) with rxq := List.replicate n ledFrame }, ledFrame, rfl, rfl, rfl, rfl,
    ledFrame_isFrame, by simp⟩

theorem witness_StrayBytesAreDiscarded :
    (∃ (s : State) (b : Byte) (rest : List RxItem), s.session = .idle ∧ s.line.rx = .byte b :: rest ∧ rest ≠ [] ∧
      b ≠ Params.hw.pStart ∧ s.line.nextMoment.reset = false ∧ s.beginStep.line.nextMoment.reset = false) ∧
    (∃ (s : State) (bs : List Byte), bs ≠ [] ∧ (∀ b ∈ bs, b ≠ 0xF0) ∧
      s.session = .idle ∧ s.txq = [] ∧ s.line = { rx := bs.map RxItem.byte, handed := s.line.handed }) ∧
    ∃ (s : State) (bs f : List Byte), bs ≠ [] ∧ (∀ b ∈ bs, b ≠ 0xF0) ∧ f.length = 6 ∧ IsFrame Params.hw f ∧
      s.rxq.length < 2 ∧ s.session = .idle ∧ s.txq = [] ∧ s.line = { rx := (bs ++ f).map RxItem.byte, handed := s.line.handed } :=
  ⟨⟨inSession .idle [.byte 0xF7, .byte 0xF0], 0xF7, [.byte 0xF0], by decide⟩,
    ⟨inSession .idle ([0x2A, 0xF7].map RxItem.byte), [0x2A, 0xF7], by decide, by decide, rfl, rfl, rfl⟩,
    ⟨inSession .idle (([0x2A] ++ ledFrame).map RxItem.byte), [0x2A], ledFrame, by decide, by decide, by decide,
      ledFrame_isFrame, by decide, rfl, rfl, rfl⟩⟩

theorem witness_RepollWaitsAndStepsOnceMore : ∃ (c : Params) (s : State), c.pRepoll = true ∧ s.line.ending = .quiet ∧
    s.line.nextMoment.reset = false ∧ (s.beginStep.wait c.pRepollDelayUs).line.nextMoment.reset = false ∧
    sessionStep c s.line.nextMoment s.beginStep = .quiescent ∧
    sessionStep c (s.beginStep.wait c.pRepollDelayUs).line.nextMoment (s.beginStep.wait c.pRepollDelayUs).beginStep
      = .quiescent :=
  ⟨{ Params.hw with pRepoll := true }, { inSession (.waitingEcho [0xAA] 0 0) [] with now := 19680 }, by decide⟩

theorem witness_PlatformResetRestoresBlock : ∃ (s : State) (rest : List Input), s.inputs = .platformReset :: rest ∧ s.err ≠ 0 :=
  ⟨{ fullState with inputs := [.platformReset] }, [], rfl, by decide⟩

theorem witness_StepKeepsGood : (∃ s t : State, s.Good ∧ step s = .next t ∧ t ≠ s) ∧
    ∃ (c : Params) (s t : State), c ≠ Params.hw ∧ c.valid = true ∧ s.GoodOn c ∧ stepOn c s = .next t ∧ t ≠ s :=
  ⟨⟨{ fullState with inputs := [.write 0 4 0x00000003] },
      { fullState with rxq := [ledFrame], fbuf := overlay ledFrame State.reset.fbuf, flen := 6, result := 0x00010006 },
      { fullState_good with }, rfl, by decide⟩,
    ⟨{ Params.hw with pTxqCap := 7, pTimerBits := 16 }, { fullState with inputs := [.write 0x10 4 3] },
      { fullState with flen := 3 }, by decide, by decide,
      { fullState_good with
        txq_room := by decide
        rxq_frames := fun f hf => ⟨(fullState_good.rxq_frames f hf).1,
          let g := (fullState_good.rxq_frames f hf).2; ⟨g.length_ge, g.start, g.stop, g.checksum_eq⟩⟩ }, rfl, by decide⟩⟩

end Sys2Proof.Tests
end

section
/-! SUPPORT. A read of a register, performed by one step; the fields of STATUS as a read shows them (spec/10_state.md R52). -/

namespace Sys2Proof.Machine

/-- What a register reads as does not depend on the accesses that are still pending. -/
theorem readReg_withInputs (r : Reg) (s : State) (rest : List Input) :
    readReg (some r) { s with inputs := rest } = readReg (some r) s := by
  cases r <;> rfl

/-- A read of a register, performed (R77). -/
theorem step_read {s : State} {r : Reg} {rest : List Input} (h : s.inputs = .read r.offset 4 :: rest) :
    step s = .next { s with inputs := rest, reads := s.reads ++ [readReg (some r) s] } := by
  simp [step_of_input h, performInput, admitted_offset, readReg_withInputs]

/-! ### The fields of STATUS -/

@[simp] theorem status_state (s : State) : s.status.extractLsb' 0 3 = s.session.code := by
  simp [State.status, BitVec.extractLsb'_or, extract_place_self, extract_place_above]

@[simp] theorem status_cursor (s : State) : s.status.extractLsb' 4 4 = s.session.cursorField := by
  simp [State.status, BitVec.extractLsb'_or, extract_place_self, extract_place_above, extract_place_below]

@[simp] theorem status_accLen (s : State) : s.status.extractLsb' 8 5 = s.session.accLenField := by
  simp [State.status, BitVec.extractLsb'_or, extract_place_self, extract_place_above, extract_place_below]

@[simp] theorem status_txqCount (s : State) : s.status.extractLsb' 16 3 = BitVec.ofNat 3 s.txq.length := by
  simp [State.status, BitVec.extractLsb'_or, extract_place_self, extract_place_above, extract_place_below]

@[simp] theorem status_rxqCount (s : State) : s.status.extractLsb' 20 2 = BitVec.ofNat 2 s.rxq.length := by
  simp [State.status, BitVec.extractLsb'_or, extract_place_self, extract_place_below]

/-- The reserved bits of STATUS are 0 in every state. -/
theorem status_reserved (s : State) : s.status &&& 0xFFC8E008 = 0 := by
  ext i h
  rw [BitVec.getElem_and, ← BitVec.getLsbD_eq_getElem h, ← BitVec.getLsbD_eq_getElem h]
  simp only [State.status, BitVec.getLsbD_or, getLsbD_place]
  interval_cases i <;> simp

/-- The cursor that a session has, 0 where it has none. -/
def Session.cursor : Session → Nat
  | .sending _ k => k
  | .waitingEcho _ k _ => k
  | .idle => 0
  | .waitingReply _ => 0
  | .receiving _ => 0

/-- The length of a session's accumulator, 0 where it has none. -/
def Session.accLen : Session → Nat
  | .receiving acc => acc.length
  | .idle => 0
  | .sending _ _ => 0
  | .waitingEcho _ _ _ => 0
  | .waitingReply _ => 0

/-- A cursor inside a buffer of at most 16 bytes is not cut by its 4-bit field (R33). -/
theorem cursorField_toNat {c : Params} {S : Session} (hc : c.pEntryMax = 16) (hS : S.Good c) :
    S.cursorField.toNat = S.cursor := by
  cases S with
  | sending buf k =>
    obtain ⟨hk, hbuf⟩ := hS
    exact Nat.mod_eq_of_lt (by omega)
  | waitingEcho buf k t0 =>
    obtain ⟨hk, hbuf, -⟩ := hS
    exact Nat.mod_eq_of_lt (by omega)
  | idle | waitingReply | receiving => rfl

/-- An accumulator shorter than a frame of at most 32 bytes is not cut by its 5-bit field (R33). -/
theorem accLenField_toNat {c : Params} {S : Session} (hc : c.pRxLen ≤ 32) (hS : S.Good c) :
    S.accLenField.toNat = S.accLen := by
  cases S with
  | receiving acc =>
    obtain ⟨hacc, -⟩ := hS
    exact Nat.mod_eq_of_lt (by omega)
  | idle | sending | waitingEcho | waitingReply => rfl

/-- Settles O9: each field of STATUS reads back what was placed in it, and the bounds of a good state make the counts fit. -/
theorem statusShowsSessionAndCounts : Obligations.StatusShowsSessionAndCounts := by
  intro s good
  constructor
  · intro rest h
    rw [readAt_base_add] at h
    have htxq : s.txq.length ≤ 5 := good.txq_room
    have hrxq : s.rxq.length ≤ 2 := good.rxq_room
    refine ⟨s.status, step_read (r := .status) h, ?_, ?_, ?_, ?_, ?_, status_reserved s⟩
    · rw [status_state]; cases s.session <;> rfl
    · rw [status_cursor, cursorField_toNat rfl good.session]; cases s.session <;> rfl
    · rw [status_accLen, accLenField_toNat (by decide) good.session]; cases s.session <;> rfl
    · rw [status_txqCount]; exact Nat.mod_eq_of_lt (by omega)
    · rw [status_rxqCount]; exact Nat.mod_eq_of_lt (by omega)
  · intro v rest h
    rw [writeAt_base_add] at h
    exact step_write (r := .status) h

end Sys2Proof.Machine
end

section
/-! SUPPORT. A TICK on a script without a platform reset ends at a quiescent step (spec/42_session.md R190). -/

namespace Sys2Proof.Machine

theorem Line.NoReset.nextMoment {l : Line} (h : l.NoReset) :
    l.nextMoment.reset = false ∧ l.nextMoment.write ≠ .heldToReset := by
  unfold Line.nextMoment
  cases hs : l.script with
  | nil => exact ⟨rfl, nofun⟩
  | cons m ms => exact h m (by simp [hs])

theorem Line.NoReset.beginStep {s : State} (h : s.line.NoReset) : s.beginStep.line.NoReset :=
  fun m hm => h m (List.mem_of_mem_tail hm)

theorem Line.NoReset.progress {c : Params} {m : Moment} {s t : State} (hl : s.line.NoReset)
    (h : sessionStep c m s = .progress t) : t.line.NoReset := by
  obtain ⟨hscript, -⟩ := progress_script h
  rwa [Line.NoReset, hscript]

/-- Only a held write holds the block to its reset (R172). -/
theorem sessionStep_heldToReset {c : Params} {m : Moment} {s t : State} (h : sessionStep c m s = .heldToReset t) :
    m.write = .heldToReset := by
  unfold sessionStep at h
  cases hs : s.session with
  | sending buf cursor =>
    simp only [hs, stepSending] at h
    split at h
    · cases h
    · split at h
      · cases h
      · cases h
      · cases h
      · next hw => exact hw
  | idle | waitingEcho buf cursor t0 | waitingReply t0 | receiving acc =>
    simp only [hs, stepIdle, stepWaitingEcho, stepWaitingReply, stepReceiving] at h
    repeat' split at h
    all_goals cases h

/-- How a TICK that completes ends where the platform does not reset the block: at a quiescent step, with the line's script
free of resets still. `P` is anything that the steps before the end keep. -/
theorem runTick_next_of_noReset {c : Params} {P : State → Prop}
    (hstep : ∀ s t, P s → sessionStep c s.line.nextMoment s.beginStep = .progress t → P t)
    (hwait : ∀ s, P s → sessionStep c s.line.nextMoment s.beginStep = .quiescent → P (s.beginStep.wait c.pRepollDelayUs))
    {s t : State} (hP : P s) (hl : s.line.NoReset) (h : runTick c s = .next t) :
    ∃ (s' : State) (any : Bool), P s' ∧ s'.line.NoReset ∧
      sessionStep c s'.line.nextMoment s'.beginStep = .quiescent ∧
      t = { s'.beginStep with result := tickResultWord any } := by
  have ends := tickLoop_next (P := fun s => P s ∧ s.line.NoReset)
    (fun s t hs hp => ⟨hstep s t hs.1 hp, hs.2.beginStep.progress hp⟩)
    (fun s hs hq => ⟨hwait s hs.1 hq, hs.2.beginStep⟩)
    s.tickFuel false false s t ⟨hP, hl⟩ h
  rcases ends with ⟨s', any, ⟨hP', hl'⟩, -, hq, rfl⟩ | ⟨s', ⟨-, hl'⟩, hr, -⟩ | ⟨s', s'', ⟨-, hl'⟩, hheld, -⟩
  · exact ⟨s', any, hP', hl', hq, rfl⟩
  · simp [hl'.nextMoment.1] at hr
  · exact absurd (sessionStep_heldToReset hheld) hl'.nextMoment.2

end Sys2Proof.Machine
end

section
/-! SUPPORT. What commands and session steps do to ERR: each raises at most one error, and none clears a bit
(spec/10_state.md R47). -/

namespace Sys2Proof.Machine

/-- From `s` to `t`, ERR is as before or has the bit of one error more. -/
def State.RaisesAtMostOne (s t : State) : Prop := t.err = s.err ∨ ∃ e : Err, t.err = s.err ||| e.bit

/-- Every bit of ERR that is set in `s` is set in `t`. -/
def State.KeepsErr (s t : State) : Prop := s.err &&& t.err = s.err

theorem State.KeepsErr.of_err_eq {s t : State} (h : t.err = s.err) : s.KeepsErr t := by
  rw [State.KeepsErr, h, BitVec.and_self]

theorem State.KeepsErr.trans {s t u : State} (h : s.KeepsErr t) (h' : t.KeepsErr u) : s.KeepsErr u := by
  unfold State.KeepsErr at *
  rw [← h, BitVec.and_assoc, h']

theorem State.RaisesAtMostOne.keepsErr {s t : State} (h : s.RaisesAtMostOne t) : s.KeepsErr t := by
  rcases h with h | ⟨e, h⟩
  · exact .of_err_eq h
  · rw [State.KeepsErr, h]
    ext i hi
    simp +contextual

/-- A session step that makes progress raises at most one error (R235). -/
theorem sessionStep_raisesAtMostOne {c : Params} {m : Moment} {s t : State} (h : sessionStep c m s = .progress t) :
    s.RaisesAtMostOne t := by
  cases sessionStep_progress h with
  | receives acc v rest hs hr =>
    rcases received_cases c acc v (s.takeRx rest) with ⟨_, _, e⟩ | ⟨_, _, _, e⟩ | ⟨_, _, _, e⟩ | ⟨r, _, e⟩ <;> rw [e]
    · exact .inl rfl
    · exact .inl rfl
    · exact .inr ⟨.rxQueueFull, rfl⟩
    · exact .inr ⟨r.err, rfl⟩
  | writeFails | echoFails | receiveFails => exact .inr ⟨.ioError, rfl⟩
  | echoDiffers => exact .inr ⟨.echoMismatch, rfl⟩
  | echoLate => exact .inr ⟨.echoTimeout, rfl⟩
  | replyLate => exact .inr ⟨.replyTimeout, rfl⟩
  | idleReceives | idleSends | writes | echoLast | echoNext | replyReadable => exact .inl rfl

theorem State.feed_err (b : Byte) (n : Nat) (s : State) : (s.feed b n).err = s.err := by
  unfold State.feed
  split <;> rfl

/-- A command other than TICK raises at most one error (R234). -/
theorem execOn_raisesAtMostOne {c : Params} {i : Instr} (hi : i ≠ .tick) {s t : State} (h : execOn c i s = .next t) :
    s.RaisesAtMostOne t := by
  cases i with
  | tick => exact absurd rfl hi
  | enq =>
    simp only [execOn, runEnq] at h
    split at h
    · cases h; exact .inr ⟨.badLength, rfl⟩
    · split at h
      · cases h; exact .inr ⟨.txQueueFull, rfl⟩
      · cases h; exact .inl rfl
  | pop =>
    simp only [execOn, execPop] at h
    split at h <;> cases h <;> exact .inl rfl
  | cksum => cases h; exact .inl rfl
  | bstat fs => cases h; exact .inl rfl
  | bfschg fs => cases h; exact .inl rfl
  | ledst =>
    simp only [execOn, runLedst] at h
    split at h
    · cases h; exact .inr ⟨.badLength, rfl⟩
    · cases h; exact .inl rfl
  | afeed b n =>
    simp only [execOn, runAfeed] at h
    split at h
    · cases h; exact .inr ⟨.badLength, rfl⟩
    · cases h; exact .inl (State.feed_err b n.toNat s)

/-- A TICK that no platform reset ends clears no bit of ERR, whatever its session steps raise. -/
theorem runTick_keepsErr {c : Params} {s t : State} (hl : s.line.NoReset) (h : runTick c s = .next t) : s.KeepsErr t := by
  obtain ⟨s', any, hs', -, -, rfl⟩ := runTick_next_of_noReset (P := s.KeepsErr)
    (fun u v hu hp => hu.trans (sessionStep_raisesAtMostOne hp).keepsErr) (fun u hu _ => hu)
    (.of_err_eq rfl) hl h
  exact hs'

/-- No command clears a bit of ERR, on any configuration (R47). -/
theorem execOn_keepsErr {c : Params} {i : Instr} {s t : State} (hl : s.line.NoReset) (h : execOn c i s = .next t) :
    s.KeepsErr t := by
  by_cases hi : i = .tick
  · subst hi; exact runTick_keepsErr hl h
  · exact (execOn_raisesAtMostOne hi h).keepsErr

/-- A host write to ERR sets none of the bits that it does not clear: reserved bits that are 0 stay 0 (R46, R47). -/
theorem errAfterWrite_reserved {err : Word} (v : Word) (h : err &&& ~~~errClearMask = 0) :
    errAfterWrite err v &&& ~~~errClearMask = 0 := by
  rw [errAfterWrite, BitVec.and_assoc, BitVec.and_comm (~~~_), ← BitVec.and_assoc, h]
  exact BitVec.zero_and

/-- Settles O13: the write by its law bit by bit; the commands because each raises errors and clears none. -/
theorem errClearsOnlyByHostWrite : Obligations.ErrClearsOnlyByHostWrite := by
  constructor
  · intro s v rest h
    rw [writeAt_base_add] at h
    exact ⟨errAfterWrite s.err v, step_write (r := .err) h, fun n hn => errAfterWrite_getLsbD s.err v n hn,
      fun good => errAfterWrite_reserved v good.err_reserved⟩
  · intro i s t hl h
    rw [← execOn_hw] at h
    exact execOn_keepsErr hl h

end Sys2Proof.Machine
end

section
/-! SUPPORT. The state after reset (spec/10_state.md R60). -/

namespace Sys2Proof.Machine

/-- Settles O58: each field of the reset state as R60's table gives it, and STATUS computed from them. -/
theorem resetStateIsAsSpecified : Obligations.ResetStateIsAsSpecified :=
  ⟨rfl, rfl, rfl, fun i => Vector.getElem_replicate i.isLt, rfl, rfl, rfl, rfl, by decide⟩

end Sys2Proof.Machine
end

section
/-! SUPPORT. Host accesses that the block refuses, and those that reach no register or only a read-only one
(spec/20_memory.md R73, R76). -/

namespace Sys2Proof.Machine

/-- The accesses the block refuses (R76). -/
theorem admitted_eq_false_iff (off : Int) (size : Nat) :
    admitted off size = false ↔ size ≠ 4 ∨ off % 4 ≠ 0 ∨ off < 0 ∨ 0x40 ≤ off := by
  rw [← Bool.not_eq_true, admitted_iff]
  omega

/-- A refused write faults, whatever commands do (R76). -/
theorem performInput_write_refused {run : CommandMeaning} {off : Int} {size : Nat} {v : Word} {s : State}
    (h : admitted off size = false) : performInput run (.write off size v) s = .fault .badHostAccess := by
  simp [performInput, h]

/-- A refused read faults, whatever commands do (R76). -/
theorem performInput_read_refused {run : CommandMeaning} {off : Int} {size : Nat} {s : State}
    (h : admitted off size = false) : performInput run (.read off size) s = .fault .badHostAccess := by
  simp [performInput, h]

/-- Settles O6: each of the four conditions makes the access one that the block does not admit. -/
theorem unadmittedAccessFaults : Obligations.UnadmittedAccessFaults := by
  intro s addr size v rest hbad h
  have refused : admitted ((addr : Int) - Config.pBase) size = false := by
    rw [admitted_eq_false_iff]
    omega
  rcases h with h | h
  · rw [step_of_input h]; exact performInput_write_refused refused
  · rw [step_of_input h]; exact performInput_read_refused refused

/-- The offsets of the window at which no register stands (R71). -/
def reservedOffsets : List Nat := [0x18, 0x1C, 0x30, 0x34, 0x38, 0x3C]

/-- Every reserved offset is admitted, and no register stands there (R71). -/
theorem reserved_offset {off : Nat} (h : off ∈ reservedOffsets) :
    admitted off 4 = true ∧ regAt off = none := by
  revert off
  decide

/-- A read of a reserved offset, performed: it answers 0 (R73). -/
theorem step_read_reserved {s : State} {off : Nat} {rest : List Input}
    (hoff : off ∈ reservedOffsets) (h : s.inputs = .read off 4 :: rest) :
    step s = .next { s with inputs := rest, reads := s.reads ++ [0] } := by
  obtain ⟨hadm, hreg⟩ := reserved_offset hoff
  simp [step_of_input h, performInput, hadm, hreg, readReg]

/-- A write to a reserved offset, performed: it is ignored (R73). -/
theorem step_write_reserved {s : State} {off : Nat} {v : Word} {rest : List Input}
    (hoff : off ∈ reservedOffsets) (h : s.inputs = .write off 4 v :: rest) :
    step s = .next { s with inputs := rest } := by
  obtain ⟨hadm, hreg⟩ := reserved_offset hoff
  simp [step_of_input h, performInput, hadm, hreg, writeReg]

/-- The offsets of the read-only registers (R71). -/
theorem readOnly_offset {off : Nat} (h : off ∈ [0x04, 0x0C, 0x14]) :
    ∃ r ∈ [Reg.status, .result, .lastErr], off = r.offset := by
  revert off
  decide

/-- A write to a read-only register, performed: it is ignored (R73). -/
theorem step_write_readOnly {s : State} {r : Reg} {v : Word} {rest : List Input}
    (hr : r ∈ [Reg.status, .result, .lastErr]) (h : s.inputs = .write r.offset 4 v :: rest) :
    step s = .next { s with inputs := rest } := by
  rw [step_write h]
  fin_cases hr <;> rfl

/-- Settles O10: no register stands at a reserved offset, and a write to a read-only register is ignored. -/
theorem reservedAndReadOnlyOffsets : Obligations.ReservedAndReadOnlyOffsets := by
  intro s off v rest
  constructor
  · intro hoff h
    rw [readAt_base_add] at h
    exact step_read_reserved hoff h
  · intro hoff h
    rw [writeAt_base_add] at h
    rcases hoff with hoff | hoff
    · exact step_write_reserved hoff h
    · obtain ⟨r, hr, rfl⟩ := readOnly_offset hoff
      exact step_write_readOnly hr h

end Sys2Proof.Machine
end

section
/-! SUPPORT. Host accesses to the staging buffer and to its length (spec/20_memory.md R72, R74). -/

namespace Sys2Proof.Machine

/-- Settles O11: the lanes of the word that a read gives, and `FBUF` byte by byte after a write. -/
theorem fbufWordsAreLittleEndian : Obligations.FbufWordsAreLittleEndian := by
  intro s k rest
  constructor
  · intro h
    rw [Nat.add_assoc, readAt_base_add] at h
    exact ⟨fbufWord s.fbuf k, step_read (r := .fbuf k) h, fun j => laneByte_fbufWord s.fbuf k j⟩
  · intro v h
    rw [Nat.add_assoc, writeAt_base_add] at h
    exact ⟨fbufSetWord s.fbuf k v, step_write (r := .fbuf k) h, fun i => fbufSetWord_getElem s.fbuf k v i i.isLt⟩

/-- A length of 0 to 16 is stored (R72). -/
theorem writeFlen_of_eq {v : Word} {n : Fin 17} (s : State) (h : v.toNat = n.val) :
    writeFlen v s = { s with flen := n } := by
  have hn : n.val ≤ 16 := by omega
  have stored : flenOf n.val = n := Fin.ext (flenOf_val n.val hn)
  rw [writeFlen, h, if_pos hn, stored]

/-- Any larger value is a BadLength and no command fault: RESULT is kept (R72, R237). -/
theorem writeFlen_of_gt {v : Word} (s : State) (h : 16 < v.toNat) : writeFlen v s = raiseErr .badLength s := by
  rw [writeFlen, if_neg (by omega)]

/-- Settles O12: a read by the rule for registers, a write by the two cases of the value compared whole. -/
theorem flenReadsAndWrites : Obligations.FlenReadsAndWrites := by
  intro s rest
  constructor
  · intro h
    rw [readAt_base_add] at h
    exact step_read (r := .flen) h
  · intro v h
    rw [writeAt_base_add] at h
    have performed : step s = .next (writeFlen v { s with inputs := rest }) := step_write (r := .flen) h
    constructor
    · intro n hn
      rw [performed, writeFlen_of_eq _ hn]
    · intro hv
      rw [performed, writeFlen_of_gt _ hv]
      simp [raiseErr]

end Sys2Proof.Machine
end

section
/-! SUPPORT. Which words select a row of the opcode map, and what a word that selects none does
(spec/30_encoding.md R101, R102, R104). -/

namespace Sys2Proof

/-- The operation code of a row's words. -/
def OpcodeRow.opc (r : OpcodeRow) : Byte := fieldOpc r.matchBits

/-- A row's mask covers OPC and the reserved byte whole and each operand byte whole or not at all; its match is 0 outside
OPC (R101). -/
theorem opcodeMap_fields : ∀ r ∈ opcodeMap,
    fieldOpc r.mask = 0xFF ∧ fieldReserved r.mask = 0xFF ∧ fieldReserved r.matchBits = 0 ∧
    (fieldA r.mask = 0 ∨ fieldA r.mask = 0xFF) ∧ fieldA r.matchBits = 0 ∧
    (fieldB r.mask = 0 ∨ fieldB r.mask = 0xFF) ∧ fieldB r.matchBits = 0 := by decide

/-- The rows differ in OPC (R102). -/
theorem opcodeMap_opc_nodup : (opcodeMap.map OpcodeRow.opc).Nodup := by decide

theorem byte_and_0xFF (b : Byte) : b &&& 0xFF = b := BitVec.and_allOnes

/-- A byte masked whole or not at all is 0 exactly where it is unmasked or is 0 itself. -/
theorem and_byteMask_eq_zero_iff {m : Byte} (b : Byte) (hm : m = 0 ∨ m = 0xFF) : b &&& m = 0 ↔ m = 0 ∨ b = 0 := by
  rcases hm with rfl | rfl
  · simp
  · rw [byte_and_0xFF]
    simp

/-- A word selects a row of the map exactly where it has the row's OPC, and its reserved byte and the operand bytes that
the row's mask covers are 0 (R101). -/
theorem selects_iff_of_mem {r : OpcodeRow} (hr : r ∈ opcodeMap) (w : Word) :
    r.selects w = true ↔ fieldOpc w = r.opc ∧ (fieldA r.mask = 0 ∨ fieldA w = 0) ∧
      (fieldB r.mask = 0 ∨ fieldB w = 0) ∧ fieldReserved w = 0 := by
  obtain ⟨opcMask, resMask, resBits, aMask, aBits, bMask, bBits⟩ := opcodeMap_fields r hr
  rw [selects_iff_fields, opcMask, resMask, resBits, aBits, bBits, byte_and_0xFF, byte_and_0xFF,
    and_byteMask_eq_zero_iff _ aMask, and_byteMask_eq_zero_iff _ bMask, OpcodeRow.opc]

/-- A word selects at most one row: every row it selects has its OPC, and the rows differ in OPC (R102). -/
theorem length_filter_selects_le_one (w : Word) : (opcodeMap.filter (·.selects w)).length ≤ 1 := by
  have distinct : ((opcodeMap.filter (·.selects w)).map OpcodeRow.opc).Nodup :=
    opcodeMap_opc_nodup.sublist (List.filter_sublist.map _)
  have same : (opcodeMap.filter (·.selects w)).map OpcodeRow.opc ⊆ [fieldOpc w] := by
    intro o ho
    obtain ⟨r, hr, rfl⟩ := List.mem_map.mp ho
    obtain ⟨hmem, hsel⟩ := List.mem_filter.mp hr
    obtain ⟨opc, -⟩ := (selects_iff_of_mem hmem w).mp hsel
    exact List.mem_singleton.mpr opc.symm
  simpa only [List.length_map, List.length_singleton] using (distinct.subperm same).length_le

/-- The words that select a row, by their fields: the commands without operands, the two that use A, and AFEED (R101). -/
theorem exists_selects_iff (w : Word) :
    (∃ r ∈ opcodeMap, r.selects w = true) ↔
      fieldReserved w = 0 ∧
        ((fieldOpc w ∈ [0x01#8, 0x02#8, 0x03#8, 0x10#8, 0x13#8] ∧ fieldA w = 0 ∧ fieldB w = 0) ∨
          (fieldOpc w ∈ [0x11#8, 0x12#8] ∧ fieldB w = 0) ∨ fieldOpc w = 0x20#8) := by
  rw [exists_congr fun r => and_congr_right fun hr : r ∈ opcodeMap => selects_iff_of_mem hr w]
  generalize fieldOpc w = o, fieldA w = a, fieldB w = b, fieldReserved w = z
  -- The map's eight rows, written out: what remains regroups them by the operands they use.
  simp [opcodeMap, OpcodeRow.opc, fieldOpc, fieldA, fieldB]
  grind

/-- A word that no row matches is rejected (R102). -/
theorem decode_of_no_row {w : Word} (h : ∀ r ∈ opcodeMap, w &&& r.mask ≠ r.matchBits) :
    decode w = .error (rejectOf w) := by
  have none_found : opcodeMap.find? (·.selects w) = none := by
    simpa [OpcodeRow.selects] using h
  simp [decode, none_found]

end Sys2Proof

namespace Sys2Proof.Machine

/-- A write to CMD of a word that is rejected is a BadCommand and nothing else (R102). -/
theorem writeCmd_of_error {run : CommandMeaning} {w : Word} {e : Reject} (s : State) (h : decode w = .error e) :
    writeCmd run w s = .next { s with err := s.err ||| 0x00000800, lastErr := 11, result := 0x0000B000 } := by
  simp [writeCmd, h, commandFault]

/-- Settles O3: the rows differ in OPC; a row is selected field by field; and a word without a row is rejected. -/
theorem wordSelectsOneRowOrFaults : Obligations.WordSelectsOneRowOrFaults := by
  intro w
  refine ⟨length_filter_selects_le_one w, ?_, ?_⟩
  · simpa only [OpcodeRow.selects, beq_iff_eq] using exists_selects_iff w
  · intro no_row s rest h
    rw [writeAt_base] at h
    rw [step_write (r := .cmd) h]
    exact writeCmd_of_error _ (decode_of_no_row no_row)

end Sys2Proof.Machine
end

section
/-! SUPPORT. What a word decodes to, and the words of each operation code (spec/30_encoding.md R101 to R103). -/

namespace Sys2Proof

/-! ### The fields of a word with a byte placed in its field A -/

@[simp] theorem fieldOpc_or_placeA (w : Word) (a : Byte) : fieldOpc (w ||| place a 8) = fieldOpc w := by
  simp [fieldOpc, BitVec.extractLsb'_or, extract_place_above]

@[simp] theorem fieldA_or_placeA (w : Word) (a : Byte) : fieldA (w ||| place a 8) = fieldA w ||| a := by
  simp [fieldA, BitVec.extractLsb'_or, extract_place_self]

@[simp] theorem fieldB_or_placeA (w : Word) (a : Byte) : fieldB (w ||| place a 8) = fieldB w := by
  simp [fieldB, BitVec.extractLsb'_or, extract_place_below]

@[simp] theorem fieldReserved_or_placeA (w : Word) (a : Byte) : fieldReserved (w ||| place a 8) = fieldReserved w := by
  simp [fieldReserved, BitVec.extractLsb'_or, extract_place_below]

/-! ### Decoding among the words of one operation code -/

/-- A word selects no row but the one of its own operation code (R102). -/
theorem eq_of_selects {r r' : OpcodeRow} (hr : r ∈ opcodeMap) (hr' : r' ∈ opcodeMap) {w : Word}
    (hw : fieldOpc w = r.opc) (h : r'.selects w = true) : r' = r := by
  obtain ⟨opc, -⟩ := (selects_iff_of_mem hr' w).mp h
  exact List.inj_on_of_nodup_map opcodeMap_opc_nodup hr' hr (opc.symm.trans hw)

/-- A word with the operation code of a row decodes exactly where it selects that row, to the row's command with the
fields A and B (R102, R103). -/
theorem decode_eq_ok_iff {r : OpcodeRow} (hr : r ∈ opcodeMap) {w : Word} (hw : fieldOpc w = r.opc) (i : Instr) :
    decode w = .ok i ↔ r.selects w = true ∧ i = r.command (fieldA w) (fieldB w) := by
  unfold decode
  cases found : opcodeMap.find? (·.selects w) with
  | none =>
    have unselected := List.find?_eq_none.mp found r hr
    simp [unselected]
  | some r' =>
    have selected : r'.selects w = true := List.find?_some (p := fun r : OpcodeRow => r.selects w) found
    obtain rfl := eq_of_selects hr (List.mem_of_find?_eq_some found) hw selected
    simp [selected, eq_comm]

end Sys2Proof

namespace Sys2Proof.Machine

/-- A command without operands has one word, its row's match (R101). -/
theorem encodedExactly_of_no_operand {name : String} {word : Word} {cmd : Instr}
    (hr : (⟨name, 0xFFFFFFFF, word, fun _ _ => cmd⟩ : OpcodeRow) ∈ opcodeMap) :
    EncodedExactly (fieldOpc word) (fun w i => w = word ∧ i = cmd) := by
  intro w i hw
  have all_ones : w &&& 0xFFFFFFFF = w := BitVec.and_allOnes
  rw [decode_eq_ok_iff hr hw i, OpcodeRow.selects, all_ones, beq_iff_eq]

/-- A command with the operand A has one word for each byte, the byte in the field A of its row's match (R101). -/
theorem encodedExactly_of_operandA {name : String} {word : Word} {cmd : Byte → Instr}
    (hr : (⟨name, 0xFFFF00FF, word, fun a _ => cmd a⟩ : OpcodeRow) ∈ opcodeMap) :
    EncodedExactly (fieldOpc word) (fun w i => ∃ fs : Byte, w = word ||| fs.zeroExtend 32 <<< 8 ∧ i = cmd fs) := by
  intro w i hw
  obtain ⟨-, -, resBits, -, aBits, -, bBits⟩ := opcodeMap_fields _ hr
  have fields (fs : Byte) : w = word ||| fs.zeroExtend 32 <<< 8 ↔ fieldA w = fs ∧ fieldB w = 0 ∧ fieldReserved w = 0 := by
    change w = word ||| place fs 8 ↔ _
    simp [word_eq_iff_fields, hw, aBits, bBits, resBits]
  have maskA : fieldA 0xFFFF00FF = 0 := by decide
  have maskB : fieldB 0xFFFF00FF ≠ 0 := by decide
  rw [decode_eq_ok_iff hr hw i, selects_iff_of_mem hr w]
  constructor
  · rintro ⟨⟨-, -, hb, hz⟩, hi⟩
    exact ⟨fieldA w, (fields _).mpr ⟨rfl, hb.resolve_left maskB, hz⟩, hi⟩
  · rintro ⟨fs, hword, hi⟩
    obtain ⟨rfl, hb, hz⟩ := (fields fs).mp hword
    exact ⟨⟨hw, .inl maskA, .inr hb, hz⟩, hi⟩

end Sys2Proof.Machine
end

section
/-! SUPPORT. The checksum and what the builders seal (spec/40_codec.md R130, R131, R139). -/

namespace Sys2Proof.Machine

/-- The sum reads the bytes at indices 1 to n−3 alone (R131). -/
theorem sumBetweenMarkers_congr {f g : List Byte} (hlen : g.length = f.length)
    (h : ∀ i, 1 ≤ i → i + 3 ≤ f.length → g[i]? = f[i]?) : sumBetweenMarkers g = sumBetweenMarkers f := by
  unfold sumBetweenMarkers
  rw [hlen]
  refine Finset.sum_congr rfl fun i hi => ?_
  have inside : i < f.length - 3 := Finset.mem_range.mp hi
  rw [List.getD_eq_getElem?_getD, List.getD_eq_getElem?_getD, h (i + 1) (by omega) (by omega)]

/-- Wrapping the sum at a multiple of 0x80 does not change its complement (R131). -/
theorem sevenBitComplement_mod_mul (n k : Nat) : sevenBitComplement (n % (0x80 * k)) = sevenBitComplement n := by
  rw [sevenBitComplement, Nat.mod_mul_right_mod, sevenBitComplement]

/-- Between the markers of three bytes there is nothing to sum (R131). -/
theorem sumBetweenMarkers_of_length_three {f : List Byte} (h : f.length = 3) : sumBetweenMarkers f = 0 := by
  simp [sumBetweenMarkers, h]

/-- Settles O16: the checksum is the complement of the sum between the markers, and each property is one of the sum or of
the complement. -/
theorem checksumProperties : Obligations.ChecksumProperties := by
  intro f hf
  refine ⟨sevenBitComplement (sumBetweenMarkers f), checksum_of_frame_length f hf, sevenBitComplement_lt _, ?_, ?_, ?_,
    sevenBitComplement_add _⟩
  · intro g hlen hbytes
    rw [checksum_of_frame_length g (by omega), sumBetweenMarkers_congr hlen hbytes]
  · intro k _
    exact (sevenBitComplement_mod_mul _ k).symm
  · intro h
    rw [sumBetweenMarkers_of_length_three h]
    rfl

/-- The checksum of a payload between a first byte and the two last ones is that of the payload (R130). -/
theorem checksum_enclosed (a x z : Byte) (payload : List Byte) :
    checksum (a :: (payload ++ [x, z])) = .ok (sevenBitComplement (payload.map BitVec.toNat).sum) := by
  simp [checksum, payloadSum, sevenBitComplement]

/-- A payload between the markers, its checksum before the end marker, is a frame (R13). -/
theorem isFrame_enclosed (c : Params) (payload : List Byte) :
    IsFrame c (c.pStart :: (payload ++ [sevenBitComplement (payload.map BitVec.toNat).sum, c.pEnd])) where
  length_ge := by simp
  start := rfl
  stop := by simp [List.getLast?_cons]
  checksum_eq := by simp [checksum_enclosed]

@[simp] theorem fitPayload_length (n : Nat) (p : List Byte) : (fitPayload n p).length = n := by
  simp [fitPayload]

/-- A sealed frame is the fitted payload between the markers, with its checksum (R105). -/
theorem sealFrame_eq (c : Params) (len : Nat) (payload : List Byte) :
    sealFrame c len payload = c.pStart :: (fitPayload (len - 3) payload ++
      [sevenBitComplement ((fitPayload (len - 3) payload).map BitVec.toNat).sum, c.pEnd]) := by
  simp [sealFrame, checksum_enclosed]

/-- What is sealed is a frame, on every configuration (R139). -/
theorem sealFrame_isFrame (c : Params) (len : Nat) (payload : List Byte) : IsFrame c (sealFrame c len payload) := by
  rw [sealFrame_eq]
  exact isFrame_enclosed c _

theorem sealFrame_length (c : Params) {len : Nat} (h : 3 ≤ len) (payload : List Byte) :
    (sealFrame c len payload).length = len := by
  simp [sealFrame_eq]
  omega

/-- Settles O21: both builders seal a payload, at the lengths of the two kinds. -/
theorem builtFramesAreFrames : Obligations.BuiltFramesAreFrames := fun _ =>
  ⟨⟨sealFrame_isFrame _ _ _, sealFrame_length _ (by decide) _⟩, sealFrame_isFrame _ _ _, sealFrame_length _ (by decide) _⟩

end Sys2Proof.Machine
end

section
/-! SUPPORT. The codec commands, and what they depend on (spec/40_codec.md R132 to R140). -/

namespace Sys2Proof.Machine

/-! ### What each command answers -/

theorem exec_cksum (s : State) : exec .cksum s = .next { s with result := checksumResultWord (checksum s.operand) } := rfl

theorem exec_bstat (fs : Byte) (s : State) : exec (.bstat fs) s = .next (s.stageBuilt (buildStatus Params.hw fs)) := rfl

theorem exec_bfschg (fs : Byte) (s : State) : exec (.bfschg fs) s = .next (s.stageBuilt (buildFsChange Params.hw fs)) := rfl

theorem exec_ledst_of_six {s : State} (h : s.flen.val = 6) :
    exec .ledst s = .next { s with result := ledResultWord (ledStatus s.operand) } :=
  if_neg (not_not.mpr h)

theorem exec_ledst_of_ne_six {s : State} (h : s.flen.val ≠ 6) : exec .ledst s = .next (commandFault .badLength s) :=
  if_pos h

/-! ### RESULT and the staged bytes -/

/-- RESULT of CKSUM of any byte sequence (R132). -/
theorem checksumResultWord_checksum (f : List Byte) :
    checksumResultWord (checksum f) =
      if f.length < 3 then 0x0000D000 else 0x00010000 ||| (sevenBitComplement (sumBetweenMarkers f)).zeroExtend 32 := by
  split_ifs with h
  · simp [checksum_of_short f h, checksumResultWord]
  · rw [checksum_of_frame_length f (Nat.not_lt.mp h), checksumResultWord, resultSome_eq]

/-- The operand byte by byte, inside FLEN (R41). -/
theorem operand_getElem? {s : State} {i : Nat} (h : i < s.flen.val) :
    s.operand[i]? = some (s.fbuf[i]'(by have := s.flen.isLt; omega)) := by
  have inside : i < s.operand.length := by rwa [operand_length]
  rw [List.getElem?_eq_getElem inside, ← operand_getD s i h 0, List.getD_eq_getElem _ _ inside]

/-- The status byte of an operand of six bytes, in terms of `FBUF` (R137). -/
theorem ledStatus_operand {s : State} (h : s.flen.val = 6) :
    ledStatus s.operand = if s.fbuf[1] = 0 ∧ s.fbuf[2] = 0 then some s.fbuf[3] else none := by
  have byte (i : Nat) (hi : i < 6) : s.operand[i]? = some s.fbuf[i] := operand_getElem? (by omega)
  simp only [ledStatus, byte 1 (by omega), byte 2 (by omega), byte 3 (by omega), Option.some.injEq]

/-! ### The effect of each command -/

/-- Settles O17: the only word of its row, and the checksum of the operand in RESULT. -/
theorem cksumWritesResultOnly : Obligations.CksumWritesResultOnly := by
  refine ⟨encodedExactly_of_no_operand (name := "CKSUM") (word := 0x10) (cmd := .cksum) (by simp [opcodeMap]), fun s => ?_⟩
  rw [exec_cksum, checksumResultWord_checksum, operand_length, State.operand]

/-- A built frame, staged: the bytes of `FBUF` one by one, FLEN and RESULT, with all else as it was (R134, R136). -/
theorem stageBuilt_writes (f : List Byte) (s : State) {n : Fin 17} {r : Word} (hn : flenOf f.length = n)
    (hr : resultSome (f.getD (f.length - 2) 0) = r) :
    ∃ fbuf : Vector Byte 16, s.stageBuilt f = { s with fbuf := fbuf, flen := n, result := r } ∧
      ∀ i : Fin 16, fbuf[i] = f.getD i.val s.fbuf[i] := by
  subst hn hr
  exact ⟨overlay f s.fbuf, rfl, fun i => overlay_getElem f s.fbuf i.val i.isLt⟩

/-- Settles O18: the words of its row, and the closed form of the frame, staged. -/
theorem bstatBuildsStatusFrame : Obligations.BstatBuildsStatusFrame := by
  refine ⟨encodedExactly_of_operandA (name := "BSTAT") (word := 0x11) (cmd := .bstat) (by simp [opcodeMap]), fun s fs => ?_⟩
  rw [exec_bstat, buildStatus_eq]
  obtain ⟨fbuf, staged, bytes⟩ := stageBuilt_writes _ s rfl (resultSome_eq _)
  exact ⟨fbuf, congrArg Host.Outcome.next staged, bytes⟩

/-- Settles O19: the words of its row, and the closed form of the frame, staged. -/
theorem bfschgBuildsChangeFrame : Obligations.BfschgBuildsChangeFrame := by
  refine ⟨encodedExactly_of_operandA (name := "BFSCHG") (word := 0x12) (cmd := .bfschg) (by simp [opcodeMap]), fun s fs => ?_⟩
  rw [exec_bfschg, buildFsChange_eq]
  obtain ⟨fbuf, staged, bytes⟩ := stageBuilt_writes _ s rfl (resultSome_eq _)
  exact ⟨fbuf, congrArg Host.Outcome.next staged, bytes⟩

/-- Settles O20: the only word of its row, and the two cases of FLEN. -/
theorem ledstExtractsStatus : Obligations.LedstExtractsStatus := by
  refine ⟨encodedExactly_of_no_operand (name := "LEDST") (word := 0x13) (cmd := .ledst) (by simp [opcodeMap]), fun s => ⟨fun h => ?_, fun h => ?_⟩⟩
  · rw [exec_ledst_of_six h, ledStatus_operand h, apply_ite ledResultWord, ledResultWord, ledResultWord, resultSome_eq,
      resultNone_eq]
    rfl
  · rw [exec_ledst_of_ne_six h]
    simp [commandFault]

/-! ### What the commands depend on -/

/-- What staging a frame writes is settled by the frame and FBUF. -/
theorem stageBuilt_output (f : List Byte) (fbuf : Vector Byte 16) :
    ∃ (fbuf' : Vector Byte 16) (flen' : Fin 17) (result' : Word), ∀ s : State, s.fbuf = fbuf →
      s.stageBuilt f = { s with fbuf := fbuf', flen := flen', result := result' } := by
  refine ⟨overlay f fbuf, flenOf f.length, resultSome (f.getD (f.length - 2) 0), ?_⟩
  rintro s rfl
  rfl

/-- Beside LEDST's fault, a codec command writes FBUF, FLEN and RESULT alone, and what it writes is settled by FBUF, FLEN
and the operand byte (R140). -/
theorem exec_codec_output {i : Instr} (hi : i = .cksum ∨ i = .ledst ∨ (∃ fs, i = .bstat fs) ∨ (∃ fs, i = .bfschg fs))
    (fbuf : Vector Byte 16) (flen : Fin 17) (noFault : ¬(i = .ledst ∧ flen.val ≠ 6)) :
    ∃ (fbuf' : Vector Byte 16) (flen' : Fin 17) (result' : Word), ∀ s : State, s.fbuf = fbuf → s.flen = flen →
      exec i s = .next { s with fbuf := fbuf', flen := flen', result := result' } := by
  rcases hi with rfl | rfl | ⟨fs, rfl⟩ | ⟨fs, rfl⟩
  · refine ⟨fbuf, flen, checksumResultWord (checksum (fbuf.toList.take flen.val)), ?_⟩
    rintro s rfl rfl
    exact exec_cksum s
  · refine ⟨fbuf, flen, ledResultWord (ledStatus (fbuf.toList.take flen.val)), ?_⟩
    rintro s rfl rfl
    exact exec_ledst_of_six (by simpa using noFault)
  · obtain ⟨fbuf', flen', result', output⟩ := stageBuilt_output (buildStatus Params.hw fs) fbuf
    exact ⟨fbuf', flen', result', fun s hfbuf _ => congrArg Host.Outcome.next (output s hfbuf)⟩
  · obtain ⟨fbuf', flen', result', output⟩ := stageBuilt_output (buildFsChange Params.hw fs) fbuf
    exact ⟨fbuf', flen', result', fun s hfbuf _ => congrArg Host.Outcome.next (output s hfbuf)⟩

/-- Settles O22: either both runs are LEDST's fault, or both write the same output. -/
theorem codecCommandsArePure : Obligations.CodecCommandsArePure := by
  intro i hi s s' hfbuf hflen
  by_cases fault : i = .ledst ∧ s.flen.val ≠ 6
  · obtain ⟨rfl, h⟩ := fault
    have h' : s'.flen.val ≠ 6 := by rwa [hflen]
    refine ⟨_, _, exec_ledst_of_ne_six h, exec_ledst_of_ne_six h', hfbuf, hflen, rfl, ⟨rfl, rfl, rfl⟩, ⟨rfl, rfl, rfl, rfl⟩,
      ⟨rfl, rfl, rfl⟩, ⟨rfl, rfl, rfl, rfl⟩, ?_⟩
    simp [h]
  · obtain ⟨fbuf', flen', result', output⟩ := exec_codec_output hi s.fbuf s.flen fault
    refine ⟨_, _, output s rfl rfl, output s' hfbuf hflen, rfl, rfl, rfl, ⟨rfl, rfl, rfl⟩, ⟨rfl, rfl, rfl, rfl⟩,
      ⟨rfl, rfl, rfl⟩, ⟨rfl, rfl, rfl, rfl⟩, ?_⟩
    rw [if_neg fault]
    exact ⟨⟨rfl, rfl⟩, rfl, rfl⟩

end Sys2Proof.Machine
end

section
/-! SUPPORT. `Update` by the room its accumulator has, and the order of its checks (spec/41_assembler.md R151, R152). -/

namespace Sys2Proof.Machine

section
variable {c : Params} {acc : List Byte} {b : Byte} {T : Nat}

/-- At or over the target the start is checked alone, and the byte is not looked at (R151). -/
theorem update_of_full (h : T ≤ acc.length) :
    update c acc b T = if acc.head? ≠ some c.pStart then .invalid .invalidStart else .invalid .tooLong :=
  if_pos h

/-- Below the target even with the byte, only the start can be wrong (R151). -/
theorem update_of_short (h : acc.length + 1 < T) :
    update c acc b T =
      if (acc ++ [b]).head? ≠ some c.pStart then .invalid .invalidStart else .incomplete (acc ++ [b]) := by
  have room : ¬ T ≤ acc.length := by omega
  simp [update, room, h]

/-- With the byte that reaches the target, the end marker is that byte and the checksum the byte before it (R151). -/
theorem update_of_last (hT : 3 ≤ T) (h : acc.length + 1 = T) :
    update c acc b T =
      if (acc ++ [b]).head? ≠ some c.pStart then .invalid .invalidStart
      else if b ≠ c.pEnd then .invalid .invalidEnd
      else if acc[T - 2]? ≠ some (sevenBitComplement (sumBetweenMarkers (acc ++ [b]))) then .invalid .checksumErr
      else .complete (acc ++ [b]) := by
  have room : ¬ T ≤ acc.length := by omega
  have reached : ¬ (acc ++ [b]).length < T := by simp [h]
  have last : (acc ++ [b])[T - 1]? = some b := by simp [← h]
  have inside : T - 2 < acc.length := by omega
  have sum := checksum_of_frame_length (acc ++ [b]) (by simpa [h] using hT)
  have before : (acc ++ [b]).getD (T - 2) 0 = acc[T - 2] := by
    simp [List.getD_eq_getElem?_getD, List.getElem?_append_left inside, inside]
  simp only [update, if_neg room, if_neg reached, last, sum, before, List.getElem?_eq_getElem inside, ne_eq,
    Option.some.injEq, ChecksumResult.ok.injEq, eq_comm (a := acc[T - 2])]

end

/-- Settles O23: the three cases of the accumulator's room; a full accumulator has the start that the appended one has. -/
theorem updateReportsFirstFailingCheck : Obligations.UpdateReportsFirstFailingCheck := by
  intro c acc b T hT
  rcases Nat.lt_trichotomy (acc.length + 1) T with short | last | beyond
  · rw [update_of_short short, if_neg (show ¬ T ≤ acc.length by omega), if_pos short]
  · rw [update_of_last hT last, if_neg (show ¬ T ≤ acc.length by omega), if_neg (show ¬ acc.length + 1 < T by omega)]
  · have full : T ≤ acc.length := by omega
    have nonempty : acc ≠ [] := List.ne_nil_of_length_pos (by omega)
    rw [update_of_full full, List.head?_append_of_ne_nil acc nonempty, if_pos full]

end Sys2Proof.Machine
end

section
/-! SUPPORT. The command AFEED (spec/41_assembler.md R155). -/

namespace Sys2Proof.Machine

/-- AFEED's words: a byte in the field A and a target in the field B, and the reserved byte 0 (R101). -/
theorem encodedExactly_afeed :
    EncodedExactly 0x20 (fun w i => ∃ b t : Byte,
      w = 0x00000020 ||| b.zeroExtend 32 <<< 8 ||| t.zeroExtend 32 <<< 16 ∧ i = .afeed b t) := by
  intro w i hw
  have row : (⟨"AFEED", 0xFF0000FF, 0x00000020, fun a b => .afeed a b⟩ : OpcodeRow) ∈ opcodeMap := by simp [opcodeMap]
  rw [decode_eq_ok_iff row hw i, selects_iff_of_mem row w]
  constructor
  · rintro ⟨⟨-, -, -, hz⟩, hi⟩
    have word : w = wordOf 0x20 (fieldA w) (fieldB w) := by rw [← hw, wordOf_fields w hz]
    exact ⟨fieldA w, fieldB w, word, hi⟩
  · rintro ⟨b, t, hword, hi⟩
    obtain rfl : w = wordOf 0x20 b t := hword
    have maskA : fieldA 0xFF0000FF = 0 := by decide
    have maskB : fieldB 0xFF0000FF = 0 := by decide
    exact ⟨⟨hw, .inl maskA, .inl maskB, fieldReserved_wordOf ..⟩, by rw [hi, fieldA_wordOf, fieldB_wordOf]⟩

/-! ### The staging buffer after the byte -/

/-- Feeding a byte writes FBUF and FLEN alone. -/
theorem State.feed_eq (b : Byte) (target : Nat) (s : State) :
    s.feed b target = { s with fbuf := (s.feed b target).fbuf, flen := (s.feed b target).flen } := by
  unfold State.feed
  split <;> rfl

/-- The byte goes to `FBUF[FLEN]` where there is room, and every other byte is kept. -/
theorem State.feed_fbuf_getElem (b : Byte) (target : Nat) (s : State) (i : Nat) (hi : i < 16) :
    (s.feed b target).fbuf[i] = if s.flen.val < target ∧ i = s.flen.val then b else s.fbuf[i] := by
  unfold State.feed
  split
  · next room => simp [room, Vector.getElem_setIfInBounds, eq_comm (a := i)]
  · next room => simp [room]

/-- FLEN counts the byte where there is room. -/
theorem State.feed_flen_val (b : Byte) {target : Nat} (htarget : target ≤ 16) (s : State) :
    (s.feed b target).flen.val = if s.flen.val < target then s.flen.val + 1 else s.flen.val := by
  unfold State.feed
  split
  · exact flenOf_val _ (by omega)
  · rfl

/-! ### The fields of RESULT -/

theorem resultValue_afeedResultWord (n : Nat) (u : UpdateResult) :
    resultValue (afeedResultWord n u) = BitVec.ofNat 8 n := by
  cases u <;> exact resultValue_resultWord ..

theorem resultValid_afeedResultWord (n : Nat) (u : UpdateResult) : resultValid (afeedResultWord n u) = true := by
  cases u <;> exact resultValid_resultWord ..

theorem afeedResultWord_reserved (n : Nat) (u : UpdateResult) : afeedResultWord n u &&& 0xFFFE0C00 = 0 := by
  cases u <;> exact resultWord_reserved ..

/-! ### What the command answers -/

/-- A target outside 3 to 16 is a BadLength. -/
theorem exec_afeed_of_bad_target {b t : Byte} {s : State} (h : t.toNat < 3 ∨ 16 < t.toNat) :
    exec (.afeed b t) s = .next (commandFault .badLength s) :=
  if_pos h

/-- With a target of 3 to 16 the byte is fed, and RESULT has the verdict on the operand before it. -/
theorem exec_afeed_of_target {b t : Byte} (s : State) (hmin : 3 ≤ t.toNat) (hmax : t.toNat ≤ 16) :
    exec (.afeed b t) s = .next { s with
      fbuf := (s.feed b t.toNat).fbuf
      flen := (s.feed b t.toNat).flen
      result := afeedResultWord (s.feed b t.toNat).flen.val (update Params.hw s.operand b t.toNat) } := by
  have accepted : ¬ (t.toNat < 3 ∨ Params.hw.pEntryMax < t.toNat) := by rw [Params.hw_pEntryMax]; omega
  rw [exec, execAfeed, runAfeed, if_neg accepted, State.feed_eq]

/-- Settles O27: the words of its row, and the two cases of the target. -/
theorem afeedAppendsAndClassifies : Obligations.AfeedAppendsAndClassifies := by
  refine ⟨encodedExactly_afeed, fun s b t => ⟨fun bad => ?_, fun hmin hmax => ?_⟩⟩
  · rw [exec_afeed_of_bad_target bad]
    simp [commandFault]
  · have fits (n : Fin 17) : (BitVec.ofNat 8 n.val).toNat = n.val := Nat.mod_eq_of_lt (by omega)
    refine ⟨_, _, _, exec_afeed_of_target s hmin hmax, fun i => State.feed_fbuf_getElem b t.toNat s i.val i.isLt,
      State.feed_flen_val b hmax s, ?_, resultValid_afeedResultWord _ _, afeedResultWord_reserved _ _, ?_⟩
    · rw [resultValue_afeedResultWord, fits]
    · rw [State.operand]
      cases update Params.hw (s.fbuf.toList.take s.flen.val) b t.toNat with
      | incomplete | complete => exact ⟨resultVerdict_resultWord .., resultReason_resultWord ..⟩
      | invalid reason => cases reason <;> exact ⟨resultVerdict_resultWord .., resultReason_resultWord ..⟩

end Sys2Proof.Machine
end

section
/-! SUPPORT. One session step from each session state that watches the line for items (spec/42_session.md R176 to R184). -/

namespace Sys2Proof.Machine

section
variable {c : Params} {m : Moment} {s : State}

/-- `TimedOut` at a step's `Now()`, from the timer's whole count (R174, R175). -/
theorem timedOut_readNow_iff (t0 : Time) (limit : Nat) :
    timedOut c (s.readNow c) t0 limit = true ↔
      (limit : Int) < ((s.now : Int) - (t0 : Int)) % (2 : Int) ^ c.pTimerBits := by
  rw [timedOut, decide_eq_true_iff, elapsed_readNow]

/-! ### The arm of each session state -/

theorem sessionStep_of_idle (h : s.session = .idle) : sessionStep c m s = stepIdle m s := by
  rw [sessionStep, h]

theorem sessionStep_of_waitingEcho {buf : List Byte} {cursor : Nat} {t0 : Time}
    (h : s.session = .waitingEcho buf cursor t0) : sessionStep c m s = stepWaitingEcho c buf cursor t0 s := by
  rw [sessionStep, h]

theorem sessionStep_of_waitingReply {t0 : Time} (h : s.session = .waitingReply t0) :
    sessionStep c m s = stepWaitingReply c t0 s := by
  rw [sessionStep, h]

theorem sessionStep_of_receiving {acc : List Byte} (h : s.session = .receiving acc) :
    sessionStep c m s = stepReceiving c acc s := by
  rw [sessionStep, h]

/-! ### WaitingEcho, by what is readable -/

section
variable {buf : List Byte} {cursor : Nat} {t0 : Time} {rest : List RxItem}

theorem stepWaitingEcho_ioErr (h : s.line.rx = .ioErr :: rest) :
    stepWaitingEcho c buf cursor t0 s = .progress (sessionError .ioError (s.takeRx rest)) := by
  rw [stepWaitingEcho, h]

theorem stepWaitingEcho_of_ne {v : Byte} (hcursor : cursor < buf.length) (h : s.line.rx = .byte v :: rest)
    (hv : v ≠ buf[cursor]) :
    stepWaitingEcho c buf cursor t0 s = .progress (sessionError .echoMismatch (s.takeRx rest)) := by
  simp [stepWaitingEcho, h, hcursor, hv]

theorem stepWaitingEcho_echo (hcursor : cursor < buf.length) (h : s.line.rx = .byte buf[cursor] :: rest) :
    stepWaitingEcho c buf cursor t0 s = .progress (echoMatched c buf cursor (s.takeRx rest)) := by
  simp [stepWaitingEcho, h, hcursor]

theorem stepWaitingEcho_silent (h : s.line.rx = []) :
    stepWaitingEcho c buf cursor t0 s =
      if timedOut c (s.readNow c) t0 c.pEchoTimeoutUs then .progress (sessionError .echoTimeout s) else .quiescent := by
  rw [stepWaitingEcho, h]

end

/-! ### Receiving, by what is readable -/

section
variable {acc : List Byte} {rest : List RxItem}

theorem stepReceiving_silent (h : s.line.rx = []) : stepReceiving c acc s = .quiescent := by
  rw [stepReceiving, h]

theorem stepReceiving_ioErr (h : s.line.rx = .ioErr :: rest) :
    stepReceiving c acc s = .progress (sessionError .ioError (s.takeRx rest)) := by
  rw [stepReceiving, h]

theorem stepReceiving_byte {v : Byte} (h : s.line.rx = .byte v :: rest) :
    stepReceiving c acc s = .progress (received c acc v (s.takeRx rest)) := by
  rw [stepReceiving, h]

end

end

/-! ### A received byte, by the verdict on it -/

section
variable {c : Params} {acc : List Byte} {v : Byte} {s : State}

theorem received_incomplete {acc' : List Byte} (h : update c acc v c.pRxLen = .incomplete acc') :
    received c acc v s = { s with session := .receiving acc' } := by
  simpa [h] using received_cases c acc v s

theorem received_complete_of_room {f : List Byte} (h : update c acc v c.pRxLen = .complete f)
    (room : s.rxq.length < c.pRxqCap) :
    received c acc v s = { s with rxq := s.rxq ++ [f], session := .idle } := by
  simpa [h, room, Nat.not_le.mpr room] using received_cases c acc v s

/-- A frame that finds the receive queue full is dropped as a session error drops the frame in progress (R183). -/
theorem received_complete_of_full {f : List Byte} (h : update c acc v c.pRxLen = .complete f)
    (full : c.pRxqCap ≤ s.rxq.length) : received c acc v s = sessionError .rxQueueFull s := by
  simpa [h, full, Nat.not_lt.mpr full] using received_cases c acc v s

theorem received_invalid {r : InvalidReason} (h : update c acc v c.pRxLen = .invalid r) :
    received c acc v s = sessionError r.err s := by
  simpa [h] using received_cases c acc v s

end

/-- A session error after an item was read: everything that is written (R235). -/
theorem sessionError_takeRx (e : Err) (rest : List RxItem) (s : State) :
    sessionError e (s.takeRx rest) =
      { s with session := .idle, line := { s.line with rx := rest }, err := s.err ||| e.bit, lastErr := e.code } :=
  rfl

/-! ### The statements -/

/-- Settles O32: the arm asks for a readable item first, then for a queued entry, then for the busy line. -/
theorem idleStepPrefersReceiving : Obligations.IdleStepPrefersReceiving := by
  intro c m s hs
  rw [sessionStep_of_idle hs, stepIdle]
  refine ⟨fun readable => ?_, fun buf rest silent queued free => ?_, fun silent waits => ?_⟩
  · rw [if_pos ((lineReadable_iff s).mpr readable)]
  · simp [lineReadable_iff, silent, queued, free]
  · rw [if_neg (by simp [lineReadable_iff, silent])]
    rcases waits with empty | busy
    · rw [empty]
    · cases s.txq <;> simp [busy]

/-- Settles O34: an error before the compare, and the echo of the last byte before that of another. -/
theorem echoStepVerifiesByte : Obligations.EchoStepVerifiesByte := by
  intro c m s buf cursor t0 rest hcursor hs
  rw [sessionStep_of_waitingEcho hs]
  refine ⟨fun hr => ?_, fun v hr differs => ?_, fun hr last => ?_, fun hr more => ?_⟩
  · rw [stepWaitingEcho_ioErr hr, sessionError_takeRx, Err.bit_ioError, Err.code_ioError]
  · rw [stepWaitingEcho_of_ne hcursor hr differs, sessionError_takeRx, Err.bit_echoMismatch, Err.code_echoMismatch]
  · rw [stepWaitingEcho_echo hcursor hr, echoMatched, if_pos last]
    rfl
  · rw [stepWaitingEcho_echo hcursor hr, echoMatched, if_neg more.ne]
    rfl

/-- Settles O35: `TimedOut` is the strict limit on the time elapsed modulo the port's width. -/
theorem echoStepTimesOutStrictly : Obligations.EchoStepTimesOutStrictly := by
  refine ⟨⟨rfl, rfl⟩, fun c m s buf cursor t0 hs silent => ?_⟩
  rw [sessionStep_of_waitingEcho hs, stepWaitingEcho_silent silent]
  simp only [timedOut_readNow_iff, sessionError, Err.bit_echoTimeout, Err.code_echoTimeout]

/-- Settles O36: the arm asks for a readable item before it asks whether the wait is over its strict limit. -/
theorem replyStepReceivesOrTimesOut : Obligations.ReplyStepReceivesOrTimesOut := by
  refine ⟨⟨rfl, rfl⟩, fun c m s t0 hs => ?_⟩
  rw [sessionStep_of_waitingReply hs, stepWaitingReply]
  simp only [lineReadable_iff, timedOut_readNow_iff, sessionError, Err.bit_replyTimeout, Err.code_replyTimeout]

/-- Settles O38: the item read decides, and for a byte the verdict of `Update` and the room in RXQ. -/
theorem receivingStepClassifiesByte : Obligations.ReceivingStepClassifiesByte := by
  intro m s acc rest hs
  rw [sessionStep_of_receiving hs]
  refine ⟨stepReceiving_silent, fun hr => ?_, fun v hr => ?_⟩
  · rw [stepReceiving_ioErr hr, sessionError_takeRx, Err.bit_ioError, Err.code_ioError]
  · rw [stepReceiving_byte hr]
    refine ⟨fun acc' verdict => ?_, fun f verdict room => ?_, fun f verdict full => ?_, fun r n verdict code => ?_⟩
    · rw [received_incomplete verdict]
      rfl
    · rw [received_complete_of_room (s := s.takeRx rest) verdict room]
      rfl
    · rw [received_complete_of_full (s := s.takeRx rest) verdict full, sessionError_takeRx, Err.bit_rxQueueFull,
        Err.code_rxQueueFull]
    · rw [received_invalid verdict, sessionError_takeRx]
      subst code
      cases r <;> rfl

end Sys2Proof.Machine
end

section
/-! SUPPORT. A TICK that finds nothing to do, and the commands that run no session step (spec/42_session.md R190, R192). -/

namespace Sys2Proof.Machine

/-- A TICK whose first step is quiescent, without the re-poll: the step's moment passes, and RESULT says that nothing was
done (R190). -/
theorem runTick_of_quiescent {c : Params} {s : State} (norepoll : c.pRepoll = false) (hflood : s.line.flooding = false)
    (hreset : s.line.nextMoment.reset = false) (hq : sessionStep c s.line.nextMoment s.beginStep = .quiescent) :
    runTick c s = .next { s.beginStep with result := tickResultWord false } := by
  rw [runTick, State.tickFuel, tickLoop]
  simp [norepoll, hflood, hreset, hq]

/-- Settles O39: no arm of Receiving reads the timer, so with nothing readable the first step is quiescent. -/
theorem receivingNeverTimesOut : Obligations.ReceivingNeverTimesOut := by
  rintro s acc hs ⟨silent, noneArrive, hreset, hflood⟩
  have quiescent : sessionStep Params.hw s.line.nextMoment s.beginStep = .quiescent := by
    rw [sessionStep_of_receiving (s := s.beginStep) hs, stepReceiving_silent]
    simp [silent, noneArrive]
  have result : tickResultWord false = 0x00010000 := by decide
  exact ⟨_, runTick_of_quiescent rfl hflood hreset quiescent, hs, ⟨rfl, rfl⟩, ⟨rfl, rfl⟩, rfl, rfl, result⟩

/-! ### ENQ and POP, case by case -/

theorem runEnq_of_empty {c : Params} {s : State} (h : s.flen.val = 0) :
    runEnq c s = .next (commandFault .badLength s) :=
  if_pos h

theorem runEnq_of_full {c : Params} {s : State} (h : s.flen.val ≠ 0) (full : c.pTxqCap ≤ s.txq.length) :
    runEnq c s = .next (commandFault .txQueueFull s) := by
  rw [runEnq, if_neg h, pushBounded_of_full _ full]

theorem runEnq_of_room {c : Params} {s : State} (h : s.flen.val ≠ 0) (room : s.txq.length < c.pTxqCap) :
    runEnq c s = .next { s with
      txq := s.txq ++ [s.operand], result := resultSome (BitVec.ofNat 8 (s.txq.length + 1)) } := by
  rw [runEnq, if_neg h, pushBounded_of_room _ room]
  simp

theorem exec_pop_of_empty {s : State} (h : s.rxq = []) : exec .pop s = .next { s with result := resultNone } := by
  rw [exec, execPop, h]

theorem exec_pop_of_cons {s : State} {f : List Byte} {rest : List (List Byte)} (h : s.rxq = f :: rest) :
    exec .pop s = .next { s with
      rxq := rest, fbuf := overlay f s.fbuf, flen := flenOf f.length, result := resultSome (BitVec.ofNat 8 f.length) } := by
  rw [exec, execPop, h]

/-- A command fault leaves the line, the timer and the host's accesses (R237). -/
theorem commandFault_sameEnv (e : Err) (s : State) : s.SameEnv (commandFault e s) := ⟨rfl, rfl, rfl, rfl⟩

/-- A frame that is built leaves the line, the timer and the host's accesses (R134, R136). -/
theorem State.stageBuilt_sameEnv (f : List Byte) (s : State) : s.SameEnv (s.stageBuilt f) :=
  ⟨s.stageBuilt_line f, s.stageBuilt_now f, s.stageBuilt_inputs f, s.stageBuilt_reads f⟩

/-- Settles O48: in each of its cases a command other than TICK writes the queues, the staging buffer, RESULT and the error
registers alone. -/
theorem onlyTickRunsSession : Obligations.OnlyTickRunsSession := by
  intro i s hi
  cases i with
  | tick => exact absurd rfl hi
  | enq =>
    by_cases empty : s.flen.val = 0
    · exact ⟨_, runEnq_of_empty empty, rfl, commandFault_sameEnv _ s⟩
    · rcases Nat.lt_or_ge s.txq.length Params.hw.pTxqCap with room | full
      · exact ⟨_, runEnq_of_room empty room, rfl, rfl, rfl, rfl, rfl⟩
      · exact ⟨_, runEnq_of_full empty full, rfl, commandFault_sameEnv _ s⟩
  | pop =>
    cases hq : s.rxq with
    | nil => exact ⟨_, exec_pop_of_empty hq, rfl, rfl, rfl, rfl, rfl⟩
    | cons f rest => exact ⟨_, exec_pop_of_cons hq, rfl, rfl, rfl, rfl, rfl⟩
  | cksum => exact ⟨_, exec_cksum s, rfl, rfl, rfl, rfl, rfl⟩
  | bstat fs => exact ⟨_, exec_bstat fs s, State.stageBuilt_session .., State.stageBuilt_sameEnv _ s⟩
  | bfschg fs => exact ⟨_, exec_bfschg fs s, State.stageBuilt_session .., State.stageBuilt_sameEnv _ s⟩
  | ledst =>
    by_cases six : s.flen.val = 6
    · exact ⟨_, exec_ledst_of_six six, rfl, rfl, rfl, rfl, rfl⟩
    · exact ⟨_, exec_ledst_of_ne_six six, rfl, commandFault_sameEnv _ s⟩
  | afeed b t =>
    by_cases bad : t.toNat < 3 ∨ 16 < t.toNat
    · exact ⟨_, exec_afeed_of_bad_target bad, rfl, commandFault_sameEnv _ s⟩
    · obtain ⟨hmin, hmax⟩ : 3 ≤ t.toNat ∧ t.toNat ≤ 16 := by omega
      exact ⟨_, exec_afeed_of_target s hmin hmax, rfl, rfl, rfl, rfl, rfl⟩

end Sys2Proof.Machine
end

section
/-! SUPPORT. The queue commands ENQ and POP (spec/43_queues.md R213, R215 to R217). -/

namespace Sys2Proof.Machine

/-- RESULT of a command that returns a count (R45). -/
theorem resultSome_ofNat {n : Nat} (h : n < 256) : resultSome (BitVec.ofNat 8 n) = 0x00010000 ||| BitVec.ofNat 32 n := by
  rw [resultSome_eq, BitVec.zeroExtend, BitVec.setWidth_ofNat_of_le_of_lt (by decide) h]

/-! ### ENQ -/

/-- Settles O28: the only word of its row, and the three cases of FLEN and the queue's room. -/
theorem enqQueuesStagingBytes : Obligations.EnqQueuesStagingBytes := by
  refine ⟨encodedExactly_of_no_operand (name := "ENQ") (word := 0x02) (cmd := .enq) (by simp [opcodeMap]),
    fun s _ => ⟨fun empty => ?_, fun staged full => ?_, fun staged room => ?_⟩⟩
  · rw [exec, execEnq, runEnq_of_empty empty]
    simp [commandFault]
  · rw [exec, execEnq, runEnq_of_full staged full.ge]
    simp [commandFault]
  · rw [exec, execEnq, runEnq_of_room staged room, resultSome_ofNat (by omega), State.operand]

/-- Where the first command answers `.next`, the others start from that state. -/
theorem execTimes_succ {c : Params} {i : Instr} {s t : State} (h : execOn c i s = .next t) (m : Nat) :
    execTimes c i (m + 1) s = execTimes c i m t := by
  rw [execTimes, h]

/-- Where the first m commands answer `.next`, the others start from that state. -/
theorem execTimes_add {c : Params} {i : Instr} {m : Nat} {s t : State} (h : execTimes c i m s = .next t) (n : Nat) :
    execTimes c i (m + n) s = execTimes c i n t := by
  induction m generalizing s with
  | zero =>
    cases h
    rw [Nat.zero_add]
  | succ m ih =>
    rw [execTimes] at h
    split at h
    · next first =>
      rw [Nat.add_right_comm, execTimes_succ first, ih h]
    · cases h
    · cases h

/-- A fault that is raised again changes nothing more: the error bits are sticky (R46). -/
theorem commandFault_commandFault (e : Err) (s : State) : commandFault e (commandFault e s) = commandFault e s := by
  simp [commandFault, BitVec.or_assoc]

/-- ENQ commands on a queue with room for all of them each append the operand (R215). -/
theorem execTimes_enq_of_room {c : Params} {s : State} {m : Nat} (staged : s.flen.val ≠ 0)
    (room : s.txq.length + m ≤ c.pTxqCap) :
    ∃ result : Word, execTimes c .enq m s = .next { s with
      txq := s.txq ++ List.replicate m s.operand, result := result } := by
  induction m generalizing s with
  | zero => exact ⟨s.result, by simp [execTimes]⟩
  | succ m ih =>
    have first := runEnq_of_room staged (show s.txq.length < c.pTxqCap by omega)
    obtain ⟨result, others⟩ := ih (s := { s with
      txq := s.txq ++ [s.operand], result := resultSome (BitVec.ofNat 8 (s.txq.length + 1)) }) staged (by simp; omega)
    refine ⟨result, ?_⟩
    rw [execTimes_succ (i := .enq) first, others]
    simp [State.operand, List.replicate_succ]

/-- ENQ commands on a full queue, one or more, are the one TxQueueFull (R212, R215). -/
theorem execTimes_enq_of_full {c : Params} {s : State} (staged : s.flen.val ≠ 0) (full : c.pTxqCap ≤ s.txq.length) (m : Nat) :
    execTimes c .enq (m + 1) s = .next (commandFault .txQueueFull s) := by
  induction m generalizing s with
  | zero => rw [execTimes_succ (i := .enq) (runEnq_of_full staged full), execTimes]
  | succ m ih => rw [execTimes_succ (i := .enq) (runEnq_of_full staged full), ih (s := commandFault .txQueueFull s) staged full,
    commandFault_commandFault]

/-- Settles O29: the commands that find room append, and those after them find the queue full. -/
theorem enqOverflowKeepsFirstEntries : Obligations.EnqOverflowKeepsFirstEntries := by
  intro c s m staged bound
  rcases le_or_gt (s.txq.length + m) c.pTxqCap with room | overflow
  · obtain ⟨result, run⟩ := execTimes_enq_of_room staged room
    refine ⟨_, run, ?_, ?_, fun _ => ⟨rfl, rfl⟩, fun overflow => absurd room overflow.not_ge⟩
    · rw [min_eq_left (by omega), State.operand]
    · simpa using room
  · obtain ⟨extra, hm⟩ : ∃ extra, m = (c.pTxqCap - s.txq.length) + (extra + 1) :=
      ⟨s.txq.length + m - c.pTxqCap - 1, by omega⟩
    obtain ⟨result, filled⟩ := execTimes_enq_of_room (c := c) (m := c.pTxqCap - s.txq.length) staged (by omega)
    have full : c.pTxqCap ≤ (s.txq ++ List.replicate (c.pTxqCap - s.txq.length) s.operand).length := by simp; omega
    have run := execTimes_add filled (extra + 1)
    rw [← hm, execTimes_enq_of_full (by exact staged) full] at run
    refine ⟨_, run, ?_, ?_, fun room => absurd room overflow.not_ge, fun _ => ⟨by simp, rfl⟩⟩
    · rw [min_eq_right (by omega), commandFault_txq, State.operand]
    · simp
      omega

/-! ### POP -/

/-- Settles O30: the only word of its row, and the two cases of the receive queue. -/
theorem popMovesOldestFrame : Obligations.PopMovesOldestFrame := by
  refine ⟨encodedExactly_of_no_operand (name := "POP") (word := 0x03) (cmd := .pop) (by simp [opcodeMap]),
    fun s => ⟨fun empty => ?_, fun f rest queued fits => ?_⟩⟩
  · simp [exec_pop_of_empty empty, resultNone_eq]
  · refine ⟨overlay f s.fbuf, flenOf f.length, ?_, flenOf_val _ fits, fun i => overlay_getElem f s.fbuf i.val i.isLt⟩
    rw [exec_pop_of_cons queued, resultSome_ofNat (by omega)]

/-- RESULT of the extractor on any byte sequence with a byte 3 (R137, R138). -/
theorem ledResultWord_ledStatus {f : List Byte} (h : 3 < f.length) :
    ledResultWord (ledStatus f) =
      if f.getD 1 0 = 0 ∧ f.getD 2 0 = 0 then 0x00010000 ||| (f.getD 3 0).zeroExtend 32 else 0x00000000 := by
  have byte (i : Nat) (hi : i ≤ 3) : f[i]? = some (f.getD i 0) := by
    rw [List.getD_eq_getElem _ _ (by omega), List.getElem?_eq_getElem]
  simp only [ledStatus, byte 1 (by omega), byte 2 (by omega), byte 3 (by omega), Option.some.injEq]
  split_ifs
  · exact resultSome_eq _
  · exact resultNone_eq

/-- Settles O31: the queue of a good state holds frames of six bytes, and what POP stages is the operand of LEDST. -/
theorem poppedFrameIsValidated : Obligations.PoppedFrameIsValidated := by
  intro s f rest good queued
  obtain ⟨six, frame⟩ : f.length = 6 ∧ IsFrame Params.hw f := good.rxq_frames f (by simp [queued])
  have flen : (flenOf f.length).val = f.length := flenOf_val _ (by omega)
  have staged : (overlay f s.fbuf).toList.take (flenOf f.length).val = f := by rw [flen, overlay_take f _ (by omega)]
  refine ⟨_, exec_pop_of_cons queued, staged, flen.trans six, frame, ?_⟩
  rw [exec_ledst_of_six (flen.trans six), State.operand, staged, ledResultWord_ledStatus (by omega)]

end Sys2Proof.Machine
end

section
/-! SUPPORT. Each command and its row of the opcode map, and the two round trips (spec/30_encoding.md R100 to R103). -/

namespace Sys2Proof

/-- A word that selects a row decodes to the row's command with the fields A and B (R103). -/
theorem decode_of_selects {r : OpcodeRow} (hr : r ∈ opcodeMap) {w : Word} (h : r.selects w = true) :
    decode w = .ok (r.command (fieldA w) (fieldB w)) := by
  obtain ⟨opc, -⟩ := (selects_iff_of_mem hr w).mp h
  exact (decode_eq_ok_iff hr opc _).mpr ⟨h, rfl⟩

/-- A word that decodes selects the row of the command it decodes to. -/
theorem exists_row_of_decode {w : Word} {i : Instr} (h : decode w = .ok i) :
    ∃ r ∈ opcodeMap, r.selects w = true ∧ i = r.command (fieldA w) (fieldB w) := by
  unfold decode at h
  split at h
  · next r found =>
    cases h
    exact ⟨r, List.mem_of_find?_eq_some found, List.find?_some (p := fun r : OpcodeRow => r.selects w) found, rfl⟩
  · cases h

/-- An operand byte that a row uses, any value; one that it does not use, 0 (R103). -/
def OpcodeRow.takes (r : OpcodeRow) (a b : Byte) : Prop :=
  (fieldA r.mask = 0 ∨ a = 0) ∧ (fieldB r.mask = 0 ∨ b = 0)

/-- The word of a row's command is its operation code with the operand bytes (R100, R101). -/
theorem encode_command {r : OpcodeRow} (hr : r ∈ opcodeMap) {a b : Byte} (h : r.takes a b) :
    encode (r.command a b) = wordOf r.opc a b := by
  obtain ⟨ha, hb⟩ := h
  simp only [opcodeMap, List.mem_cons, List.not_mem_nil, or_false] at hr
  -- Row by row: an operand that the row's mask covers is 0.
  rcases hr with rfl | rfl | rfl | rfl | rfl | rfl | rfl | rfl <;>
    simp_all [encode, OpcodeRow.opc, fieldOpc, fieldA, fieldB]

/-- Every command is that of one row, with operands that the row takes. -/
theorem exists_row_of_command (i : Instr) : ∃ r ∈ opcodeMap, ∃ a b, r.takes a b ∧ i = r.command a b := by
  cases i with
  | tick => exact ⟨opcodeMap[0], List.getElem_mem _, 0, 0, ⟨.inr rfl, .inr rfl⟩, rfl⟩
  | enq => exact ⟨opcodeMap[1], List.getElem_mem _, 0, 0, ⟨.inr rfl, .inr rfl⟩, rfl⟩
  | pop => exact ⟨opcodeMap[2], List.getElem_mem _, 0, 0, ⟨.inr rfl, .inr rfl⟩, rfl⟩
  | cksum => exact ⟨opcodeMap[3], List.getElem_mem _, 0, 0, ⟨.inr rfl, .inr rfl⟩, rfl⟩
  | bstat fs => exact ⟨opcodeMap[4], List.getElem_mem _, fs, 0, ⟨.inl (by decide), .inr rfl⟩, rfl⟩
  | bfschg fs => exact ⟨opcodeMap[5], List.getElem_mem _, fs, 0, ⟨.inl (by decide), .inr rfl⟩, rfl⟩
  | ledst => exact ⟨opcodeMap[6], List.getElem_mem _, 0, 0, ⟨.inr rfl, .inr rfl⟩, rfl⟩
  | afeed b t => exact ⟨opcodeMap[7], List.getElem_mem _, b, t, ⟨.inl (by decide), .inl (by decide)⟩, rfl⟩

/-- A row selects the word of its operation code and of operands that it takes (R101). -/
theorem selects_wordOf {r : OpcodeRow} (hr : r ∈ opcodeMap) {a b : Byte} (h : r.takes a b) :
    r.selects (wordOf r.opc a b) = true := by
  obtain ⟨ha, hb⟩ := h
  exact (selects_iff_of_mem hr _).mpr ⟨by simp, by simpa using ha, by simpa using hb, by simp⟩

/-- Settles O1: the word of a row's command selects that row, and its fields are the operands. -/
theorem decodeEncodeRoundTrip : Obligations.DecodeEncodeRoundTrip := by
  intro i
  obtain ⟨r, hr, a, b, operands, rfl⟩ := exists_row_of_command i
  rw [encode_command hr operands, decode_of_selects hr (selects_wordOf hr operands), fieldA_wordOf, fieldB_wordOf]

/-- Settles O2: the row that a word selects fixes every field of it that the command does not carry. -/
theorem encodeDecodeRoundTrip : Obligations.EncodeDecodeRoundTrip := by
  intro w i h
  obtain ⟨r, hr, selected, rfl⟩ := exists_row_of_decode h
  obtain ⟨opc, ha, hb, reserved⟩ := (selects_iff_of_mem hr w).mp selected
  rw [encode_command hr ⟨ha, hb⟩, ← opc, wordOf_fields w reserved]

/-- Settles O4: each word evaluated. -/
theorem specWordsDecode : Obligations.SpecWordsDecode := by
  unfold Obligations.SpecWordsDecode
  decide

end Sys2Proof

namespace Sys2Proof.Machine

/-- A write of a word that decodes is its command (R43). -/
theorem writeCmd_of_ok (run : CommandMeaning) {w : Word} {i : Instr} (s : State) (h : decode w = .ok i) :
    writeCmd run w s = run i s := by
  rw [writeCmd, h]

/-- Settles O5: the write reaches CMD, whatever commands mean on the configuration. -/
theorem stepRunsDecodedCommand : Obligations.StepRunsDecodedCommand := by
  refine ⟨fun s w i rest h decoded => ?_, fun s => by rw [stepOn_hw], fun i s => by rw [execOn_hw]⟩
  rw [writeAt_base] at h
  have reaches (run : CommandMeaning) : performNext run s = run i { s with inputs := rest } := by
    rw [performNext_of_input h]
    exact writeCmd_of_ok run _ decoded
  exact ⟨reaches exec, fun c => reaches (execOn c)⟩

/-! ### Assembly of the command mnemonics (R111) -/

/-- A byte operand in a word, from the number that a program writes. -/
theorem place_ofNat {n : Nat} (h : n < 256) (lo : Nat) : place (BitVec.ofNat 8 n) lo = BitVec.ofNat 32 n <<< lo := by
  rw [place, BitVec.zeroExtend, BitVec.setWidth_ofNat_of_le_of_lt (by decide) h]

/-- A command word from operands as a program writes them (R100, R111). -/
theorem wordOf_ofNat (opc : Byte) {a b : Nat} (ha : a < 256) (hb : b < 256) :
    wordOf opc (BitVec.ofNat 8 a) (BitVec.ofNat 8 b) =
      opc.zeroExtend 32 ||| BitVec.ofNat 32 a <<< 8 ||| BitVec.ofNat 32 b <<< 16 := by
  rw [wordOf, place_ofNat ha, place_ofNat hb, place, BitVec.shiftLeft_zero]

/-- An operation that is one command assembles, where its immediates fit, to the write of the command's word to CMD. -/
theorem assemble_of_command {op : HostOp} {i : Instr} {w : Word} {fits : Prop} [Decidable fits]
    (hwf : op.wf = decide fits) (hop : expandOp op = [wrInput .cmd (encode i)]) (hw : fits → encode i = w) :
    assemble op = if fits then some [.write 0 4 w] else none := by
  by_cases h : fits
  · simp [assemble, hwf, hop, h, hw h, wrInput, Reg.offset]
  · simp [assemble, hwf, h]

/-- Settles O15: the operation assembles where its immediates fit, and then the word is the encoder's. -/
theorem commandMnemonicsAssemble : Obligations.CommandMnemonicsAssemble := by
  have withA (opc : Byte) {fs : Nat} (h : fs < 256) :
      wordOf opc (BitVec.ofNat 8 fs) 0 = opc.zeroExtend 32 ||| BitVec.ofNat 32 fs <<< 8 := by
    simpa using wordOf_ofNat opc h (show 0 < 256 by decide)
  refine ⟨by decide, fun fs => ?_, fun fs => ?_, fun b t => ?_⟩
  · exact assemble_of_command (i := .bstat (BitVec.ofNat 8 fs)) rfl rfl (withA 0x11)
  · exact assemble_of_command (i := .bfschg (BitVec.ofNat 8 fs)) rfl rfl (withA 0x12)
  · exact assemble_of_command (i := .afeed (BitVec.ofNat 8 b) (BitVec.ofNat 8 t)) (by simp [HostOp.wf, fitsByte]) rfl
      fun ⟨hb, ht⟩ => wordOf_ofNat 0x20 hb ht

end Sys2Proof.Machine
end

section
/-! SUPPORT. What one command other than TICK can do, said once, and what it does to ERR and LAST_ERR
(spec/10_state.md R44 to R48). -/

namespace Sys2Proof.Machine

/-- The fields of RESULT that a command may write: the reserved bits 0, no VERDICT 3, and in REASON a code of R231 or 0
(R44). -/
structure ResultGood (r : Word) : Prop where
  reserved : r &&& 0xFFFE0C00 = 0
  verdict : resultVerdict r ≠ 3
  reason : (resultReason r).toNat ≤ 13

theorem resultGood_resultWord {value : Byte} {verdict : BitVec 2} {reason : BitVec 4} {valid : Bool}
    (hverdict : verdict ≠ 3) (hreason : reason.toNat ≤ 13) : ResultGood (resultWord value verdict reason valid) where
  reserved := resultWord_reserved ..
  verdict := by rwa [resultVerdict_resultWord]
  reason := by rwa [resultReason_resultWord]

theorem resultGood_resultSome (v : Byte) : ResultGood (resultSome v) := resultGood_resultWord (by decide) (by decide)

theorem resultGood_resultNone : ResultGood resultNone := resultGood_resultWord (by decide) (by decide)

theorem resultGood_resultFailed (e : Err) : ResultGood (resultFailed e.code) :=
  resultGood_resultWord (by decide) ((err_code_toNat e).2.trans (by decide))

theorem resultGood_checksumResultWord (r : ChecksumResult) : ResultGood (checksumResultWord r) := by
  cases r with
  | ok v => exact resultGood_resultSome v
  | tooShort => exact resultGood_resultWord (by decide) (by decide)

theorem resultGood_ledResultWord (r : Option Byte) : ResultGood (ledResultWord r) := by
  cases r with
  | some v => exact resultGood_resultSome v
  | none => exact resultGood_resultNone

theorem resultGood_afeedResultWord (n : Nat) (u : UpdateResult) : ResultGood (afeedResultWord n u) := by
  cases u with
  | incomplete | complete => exact resultGood_resultWord (by decide) (by decide)
  | invalid r => exact resultGood_resultWord (by decide) ((err_code_toNat r.err).2.trans (by decide))

/-- What a command other than TICK can do: it faults, or it completes and writes RESULT and perhaps the staging buffer,
with one entry more in TXQ (ENQ) or the oldest frame of RXQ gone (POP). -/
inductive CommandEffect (c : Params) (s : State) : State → Prop
  | faults (e : Err) : CommandEffect c s (commandFault e s)
  | stages (fbuf : Vector Byte 16) (flen : Fin 17) (result : Word) (hresult : ResultGood result) :
      CommandEffect c s { s with fbuf := fbuf, flen := flen, result := result }
  | queues (result : Word) (hresult : ResultGood result) (staged : s.flen.val ≠ 0) (room : s.txq.length < c.pTxqCap) :
      CommandEffect c s { s with txq := s.txq ++ [s.operand], result := result }
  | pops (f : List Byte) (rest : List (List Byte)) (fbuf : Vector Byte 16) (flen : Fin 17) (result : Word)
      (hresult : ResultGood result) (queued : s.rxq = f :: rest) :
      CommandEffect c s { s with rxq := rest, fbuf := fbuf, flen := flen, result := result }

/-- A command other than TICK does one of the things of `CommandEffect`. -/
theorem execOn_effect {c : Params} {i : Instr} (hi : i ≠ .tick) {s t : State} (h : execOn c i s = .next t) :
    CommandEffect c s t := by
  cases i with
  | tick => exact absurd rfl hi
  | enq =>
    by_cases empty : s.flen.val = 0
    · cases (runEnq_of_empty empty).symm.trans h; exact .faults _
    · rcases Nat.lt_or_ge s.txq.length c.pTxqCap with room | full
      · cases (runEnq_of_room empty room).symm.trans h; exact .queues _ (resultGood_resultSome _) empty room
      · cases (runEnq_of_full empty full).symm.trans h; exact .faults _
  | pop =>
    cases hq : s.rxq with
    | nil => cases (exec_pop_of_empty hq).symm.trans h; exact .stages s.fbuf s.flen _ resultGood_resultNone
    | cons f rest => cases (exec_pop_of_cons hq).symm.trans h; exact .pops f rest _ _ _ (resultGood_resultSome _) hq
  | cksum => cases h; exact .stages s.fbuf s.flen _ (resultGood_checksumResultWord _)
  | bstat fs => cases h; exact .stages _ _ _ (resultGood_resultSome _)
  | bfschg fs => cases h; exact .stages _ _ _ (resultGood_resultSome _)
  | ledst =>
    simp only [execOn, runLedst] at h
    split at h <;> cases h
    · exact .faults _
    · exact .stages s.fbuf s.flen _ (resultGood_ledResultWord _)
  | afeed b n =>
    simp only [execOn, runAfeed] at h
    split at h <;> cases h
    · exact .faults _
    · rw [State.feed_eq b n.toNat s]
      exact .stages _ _ _ (resultGood_afeedResultWord _ _)

end Sys2Proof.Machine
end

section
/-! SUPPORT. The invariant of the block, kept by every operation and so by every step (spec/10_state.md R33 to R48). -/

namespace Sys2Proof.Machine

/-! ### R6's constraints, one by one -/

section
variable {c : Params}

theorem Params.valid_iff : c.valid = true ↔
    3 ≤ c.pRxLen ∧ c.pRxLen ≤ c.pEntryMax ∧ c.pStatusLen ≤ c.pEntryMax ∧ c.pFschgLen ≤ c.pEntryMax ∧ c.pEntryMax = 16 ∧
      1 ≤ c.pTxqCap ∧ c.pTxqCap ≤ 7 ∧ 1 ≤ c.pRxqCap ∧ c.pRxqCap ≤ 3 := by
  simp [Params.valid, and_assoc]

theorem Params.pRxLen_ge_of_valid (h : c.valid = true) : 3 ≤ c.pRxLen := (Params.valid_iff.mp h).1

theorem Params.pEntryMax_of_valid (h : c.valid = true) : c.pEntryMax = 16 := by
  obtain ⟨-, -, -, -, entryMax, -⟩ := Params.valid_iff.mp h
  exact entryMax

theorem readNow_lt (c : Params) (s : State) : s.readNow c < c.timerModulus :=
  Nat.mod_lt _ (Nat.two_pow_pos c.pTimerBits)

end

/-! ### The parts that an operation changes -/

section
variable {c : Params} {s : State}

/-- Adding the bit of an error to ERR leaves its reserved bits 0 (R46). -/
theorem err_or_bit_reserved {err : Word} (e : Err) (h : err &&& ~~~errClearMask = 0) :
    (err ||| e.bit) &&& ~~~errClearMask = 0 := by
  rw [BitVec.and_comm, BitVec.and_or_distrib_left, BitVec.and_comm, h, BitVec.and_comm, err_bit_reserved]
  rfl

theorem err_code_ne_zero (e : Err) : e.code ≠ 0 := by cases e <;> decide

theorem State.GoodOn.raiseErr (h : s.GoodOn c) (e : Err) : (raiseErr e s).GoodOn c :=
  { h with
    err_reserved := err_or_bit_reserved e h.err_reserved
    lastErr_le := (err_code_toNat e).2
    err_of_lastErr := fun h0 => absurd h0 (err_code_ne_zero e) }

theorem State.GoodOn.withSession (h : s.GoodOn c) {S : Session} (hS : S.Good c) : { s with session := S }.GoodOn c :=
  { h with session := hS }

theorem State.GoodOn.withResult (h : s.GoodOn c) {r : Word} (hr : ResultGood r) : { s with result := r }.GoodOn c :=
  { h with result_reserved := hr.reserved, result_verdict := hr.verdict, result_reason := hr.reason }

/-- The staging buffer and the environment are no part of the invariant. -/
theorem State.GoodOn.withStaging (h : s.GoodOn c) (fbuf : Vector Byte 16) (flen : Fin 17) :
    { s with fbuf := fbuf, flen := flen }.GoodOn c := { h with }

theorem State.GoodOn.withEnv (h : s.GoodOn c) (line : Line) (now : Nat) (inputs : List Input) (reads : List Word) :
    { s with line := line, now := now, inputs := inputs, reads := reads }.GoodOn c := { h with }

theorem State.GoodOn.beginStep (h : s.GoodOn c) : s.beginStep.GoodOn c := h.withEnv _ _ _ _

theorem State.GoodOn.takeRx (h : s.GoodOn c) (rest : List RxItem) : (s.takeRx rest).GoodOn c := h.withEnv _ _ _ _

theorem State.GoodOn.handToLine (h : s.GoodOn c) (v : Byte) : (s.handToLine v).GoodOn c := h.withEnv _ _ _ _

theorem State.GoodOn.commandFault (h : s.GoodOn c) (e : Err) : (commandFault e s).GoodOn c :=
  (h.raiseErr e).withResult (resultGood_resultFailed e)

theorem State.GoodOn.sessionError (h : s.GoodOn c) (e : Err) : (sessionError e s).GoodOn c :=
  (h.raiseErr e).withSession (S := .idle) trivial

/-- The block is good after the platform's reset, from any state (R60). -/
theorem platformReset_good (c : Params) (s : State) : s.platformReset.GoodOn c where
  session := trivial
  txq_room := Nat.zero_le _
  txq_entries := nofun
  rxq_room := Nat.zero_le _
  rxq_frames := nofun
  err_reserved := BitVec.zero_and
  lastErr_le := Nat.zero_le _
  err_of_lastErr := fun _ => rfl
  result_reserved := BitVec.zero_and
  result_verdict := by rw [State.platformReset_result]; decide
  result_reason := by rw [State.platformReset_result]; decide

/-- An entry that ENQ takes has 1 to `P_ENTRY_MAX` bytes, and there is room for it (R37). -/
theorem State.GoodOn.enqueue (h : s.GoodOn c) {e : List Byte} (hlen : 1 ≤ e.length ∧ e.length ≤ c.pEntryMax)
    (room : s.txq.length < c.pTxqCap) : { s with txq := s.txq ++ [e] }.GoodOn c :=
  { h with
    txq_room := by simpa using room
    txq_entries := by
      intro x hx
      rcases List.mem_append.mp hx with hx | hx
      · exact h.txq_entries x hx
      · rwa [List.mem_singleton.mp hx] }

/-- A frame of `P_RX_LEN` bytes is received where there is room for it (R38). -/
theorem State.GoodOn.receive (h : s.GoodOn c) {f : List Byte} (hf : f.length = c.pRxLen ∧ IsFrame c f)
    (room : s.rxq.length < c.pRxqCap) : { s with rxq := s.rxq ++ [f] }.GoodOn c :=
  { h with
    rxq_room := by simpa using room
    rxq_frames := by
      intro x hx
      rcases List.mem_append.mp hx with hx | hx
      · exact h.rxq_frames x hx
      · rwa [List.mem_singleton.mp hx] }

theorem State.GoodOn.dequeueTxq (h : s.GoodOn c) {buf : List Byte} {rest : List (List Byte)} (hq : s.txq = buf :: rest) :
    { s with txq := rest }.GoodOn c :=
  { h with
    txq_room := (Nat.le_succ _).trans (by simpa [hq] using h.txq_room)
    txq_entries := fun x hx => h.txq_entries x (by simp [hq, hx]) }

theorem State.GoodOn.dequeueRxq (h : s.GoodOn c) {f : List Byte} {rest : List (List Byte)} (hq : s.rxq = f :: rest) :
    { s with rxq := rest }.GoodOn c :=
  { h with
    rxq_room := (Nat.le_succ _).trans (by simpa [hq] using h.rxq_room)
    rxq_frames := fun x hx => h.rxq_frames x (by simp [hq, hx]) }

end

/-- Settles O59: the reset state is what a platform reset leaves. -/
theorem resetStateIsGood : Obligations.ResetStateIsGood := platformReset_good Params.hw State.reset

/-! ### Session steps and TICK -/

/-- What `Update` calls Complete is a frame of the target length (R154). -/
theorem update_complete {c : Params} {acc a : List Byte} {b : Byte} {T : Nat} (hT : 3 ≤ T) (h : update c acc b T = .complete a) :
    a = acc ++ [b] ∧ a.length = T ∧ IsFrame c a := by
  rcases update_cases c acc b T with e | ⟨e, -⟩ | ⟨e, -⟩ | ⟨e, -⟩ | ⟨e, -⟩ | ⟨e, len, start, stop, sum⟩ <;> rw [e] at h
  all_goals cases h
  have length : (acc ++ [b]).length = T := by simpa using len
  exact ⟨rfl, length, by omega, start, by simp [stop], by rw [sum, length]⟩

/-- What `Update` calls Incomplete begins with the start marker, and is below the target (R152). -/
theorem update_incomplete {c : Params} {acc a : List Byte} {b : Byte} {T : Nat} (h : update c acc b T = .incomplete a) :
    a = acc ++ [b] ∧ a.length < T ∧ a.head? = some c.pStart := by
  rcases update_cases c acc b T with e | ⟨e, -⟩ | ⟨e, short, start⟩ | ⟨e, -⟩ | ⟨e, -⟩ | ⟨e, -⟩ <;> rw [e] at h
  all_goals cases h
  exact ⟨rfl, by simpa using short, start⟩

section
variable {c : Params}

theorem received_good {acc : List Byte} {v : Byte} {s : State} (hc : 3 ≤ c.pRxLen) (h : s.GoodOn c) :
    (received c acc v s).GoodOn c := by
  rcases received_cases c acc v s with ⟨acc', hu, e⟩ | ⟨f, hu, room, e⟩ | ⟨f, -, -, e⟩ | ⟨r, -, e⟩ <;> rw [e]
  · obtain ⟨-, short, start⟩ := update_incomplete hu
    exact h.withSession (S := .receiving acc') ⟨short, .inr start⟩
  · obtain ⟨-, length, frame⟩ := update_complete hc hu
    exact (h.receive ⟨length, frame⟩ room).withSession (S := .idle) trivial
  · exact h.sessionError .rxQueueFull
  · exact h.sessionError r.err

/-- A session step that makes progress keeps the invariant (R33). -/
theorem sessionStep_keepsGood {m : Moment} {s t : State} (hc : 3 ≤ c.pRxLen) (h : s.GoodOn c)
    (hstep : sessionStep c m s = .progress t) : t.GoodOn c := by
  have hS := h.session
  cases sessionStep_progress hstep with
  | idleReceives hs hr => exact h.withSession (S := .receiving []) ⟨by simp; omega, .inl rfl⟩
  | idleSends buf rest hs hr hq hb =>
    obtain ⟨nonempty, short⟩ := h.txq_entries buf (by simp [hq])
    exact (h.dequeueTxq hq).withSession (S := .sending buf 0) ⟨nonempty, short⟩
  | writes buf cursor v hs hv hw =>
    rw [hs] at hS
    obtain ⟨inside, short⟩ := hS
    exact (h.handToLine v).withSession (S := .waitingEcho buf cursor (s.readNow c)) ⟨inside, short, readNow_lt c s⟩
  | writeFails buf cursor v hs hv hw => exact (h.handToLine v).sessionError .ioError
  | echoFails buf cursor t0 rest hs hr => exact (h.takeRx rest).sessionError .ioError
  | echoLast buf cursor t0 v rest hs hr hv hl =>
    exact (h.takeRx rest).withSession (S := .waitingReply (s.readNow c)) (readNow_lt c s)
  | echoNext buf cursor t0 v rest hs hr hv hl =>
    rw [hs] at hS
    obtain ⟨inside, short, -⟩ := hS
    exact (h.takeRx rest).withSession (S := .sending buf (cursor + 1)) ⟨by omega, short⟩
  | echoDiffers buf cursor t0 v w rest hs hr hv hd => exact (h.takeRx rest).sessionError .echoMismatch
  | echoLate buf cursor t0 hs hr ht => exact h.sessionError .echoTimeout
  | replyReadable t0 hs hr => exact h.withSession (S := .receiving []) ⟨by simp; omega, .inl rfl⟩
  | replyLate t0 hs hr ht => exact h.sessionError .replyTimeout
  | receiveFails acc rest hs hr => exact (h.takeRx rest).sessionError .ioError
  | receives acc v rest hs hr => exact received_good hc (h.takeRx rest)

/-- A TICK keeps the invariant, whether it ends at a quiescent step or at a platform reset. -/
theorem runTick_keepsGood {s t : State} (hc : 3 ≤ c.pRxLen) (h : s.GoodOn c) (hrun : runTick c s = .next t) : t.GoodOn c := by
  have ends := tickLoop_next (P := State.GoodOn c) (fun u v hu hstep => sessionStep_keepsGood hc hu.beginStep hstep)
    (fun u hu _ => hu.beginStep.withEnv _ _ _ _) s.tickFuel false false s t h hrun
  rcases ends with ⟨u, any, hu, -, -, rfl⟩ | ⟨u, -, -, rfl⟩ | ⟨u, v, -, -, rfl⟩
  · exact hu.beginStep.withResult (resultGood_resultSome _)
  · exact platformReset_good c _
  · exact platformReset_good c _

/-! ### Commands, host accesses and steps -/

/-- A command keeps the invariant. -/
theorem execOn_keepsGood {i : Instr} {s t : State} (hc : c.valid = true) (h : s.GoodOn c) (hrun : execOn c i s = .next t) :
    t.GoodOn c := by
  by_cases hi : i = .tick
  · subst hi
    exact runTick_keepsGood (Params.pRxLen_ge_of_valid hc) h hrun
  · cases execOn_effect hi hrun with
    | faults e => exact h.commandFault e
    | stages fbuf flen result hresult => exact (h.withStaging fbuf flen).withResult hresult
    | queues result hresult staged room =>
      have length : 1 ≤ s.operand.length ∧ s.operand.length ≤ c.pEntryMax := by
        rw [operand_length, Params.pEntryMax_of_valid hc]
        omega
      exact (h.enqueue length room).withResult hresult
    | pops f rest fbuf flen result hresult queued =>
      exact ((h.dequeueRxq queued).withStaging fbuf flen).withResult hresult

theorem writeReg_keepsGood {run : CommandMeaning} {r : Option Reg} {v : Word} {s t : State}
    (hrun : ∀ (i : Instr) (u : State), run i s = .next u → u.GoodOn c) (h : s.GoodOn c)
    (hw : writeReg run r v s = .next t) : t.GoodOn c := by
  cases r with
  | none => cases hw; exact h
  | some r =>
    cases r with
    | cmd =>
      cases hd : decode v with
      | ok i => exact hrun i t ((writeCmd_of_ok run s hd).symm.trans hw)
      | error e =>
        simp only [writeReg, writeCmd, hd] at hw
        cases hw
        exact h.commandFault .badCommand
    | status | result | lastErr => cases hw; exact h
    | err =>
      cases hw
      exact { h with
        err_reserved := errAfterWrite_reserved v h.err_reserved
        err_of_lastErr := fun h0 => by simp [errAfterWrite, h.err_of_lastErr h0] }
    | flen =>
      simp only [writeReg, writeFlen] at hw
      split at hw <;> cases hw
      · exact h.withStaging s.fbuf _
      · exact h.raiseErr .badLength
    | fbuf k => cases hw; exact h.withStaging _ s.flen

/-- A step keeps the invariant on every admitted configuration. -/
theorem stepOn_keepsGood {s t : State} (hc : c.valid = true) (h : s.GoodOn c) (hstep : stepOn c s = .next t) : t.GoodOn c := by
  cases hin : s.inputs with
  | nil =>
    simp only [stepOn, performNext, hin] at hstep
    cases hstep
    exact h
  | cons i rest =>
    rw [stepOn, performNext_of_input hin] at hstep
    have h' : { s with inputs := rest }.GoodOn c := { h with }
    cases i with
    | write off size v =>
      simp only [performInput] at hstep
      split at hstep
      · exact writeReg_keepsGood (fun j u => execOn_keepsGood hc h') h' hstep
      · cases hstep
    | read off size =>
      simp only [performInput] at hstep
      split at hstep <;> cases hstep
      exact { h with }
    | platformReset => cases hstep; exact platformReset_good c _

end

/-- Settles O60: the default configuration is an admitted one, and there `stepOn` is `step`. -/
theorem stepKeepsGood : Obligations.StepKeepsGood := by
  refine ⟨fun s t h hstep => ?_, fun c s t => stepOn_keepsGood⟩
  rw [← stepOn_hw] at hstep
  exact stepOn_keepsGood Params.hw_valid h hstep

end Sys2Proof.Machine
end

section
/-! SUPPORT. Reads of the window, the loading of the staging buffer, and the platform's reset as an input
(spec/20_memory.md R77, spec/30_encoding.md R113, spec/70_reset_and_hazards.md R260). -/

namespace Sys2Proof.Machine

/-! ### Reads -/

/-- An admitted read completes, and changes nothing but the record of what was read (R77). -/
theorem step_read_admitted {s : State} {off : Int} {rest : List Input} (hadm : admitted off 4 = true)
    (h : s.inputs = .read off 4 :: rest) : ∃ v, step s = .next { s with inputs := rest, reads := s.reads ++ [v] } := by
  rw [step_of_input h, performInput, if_pos hadm]
  exact ⟨_, rfl⟩

/-- Settles O7: every word of the window is an aligned 32-bit access inside it. -/
theorem readsHaveNoSideEffect : Obligations.ReadsHaveNoSideEffect := by
  intro s k rest hk h
  rw [readAt_base_add] at h
  exact step_read_admitted ((admitted_iff _ _).mpr (by omega)) h

/-- Settles O8: a read by the rule for registers, and one of a reserved offset. -/
theorem registersReadTheirState : Obligations.RegistersReadTheirState := by
  intro s off rest v h hv
  rw [readAt_base_add] at h
  rcases hv with ⟨rfl, rfl⟩ | ⟨rfl, rfl⟩ | ⟨rfl, rfl⟩ | ⟨rfl, rfl⟩ | ⟨rfl, rfl⟩ | ⟨reserved, rfl⟩
  · exact step_read (r := .cmd) h
  · exact step_read (r := .err) h
  · exact step_read (r := .result) h
  · exact step_read (r := .flen) h
  · rw [BitVec.ofNat_toNat]; exact step_read (r := .lastErr) h
  · exact step_read_reserved reserved h

/-! ### `fset` -/

/-- The lanes of an `fset` word are the list's bytes, four to a word (R74, R113). -/
theorem extract_fsetWord (bs : List Nat) (i : Nat) :
    (fsetWord bs (i / 4)).extractLsb' (8 * (i % 4)) 8 = fsetByte bs i := by
  have lane (k : Nat) (j : Fin 4) : (fsetWord bs k).extractLsb' (8 * j.val) 8 = fsetByte bs (4 * k + j.val) := by
    fin_cases j <;>
      simp [fsetWord, BitVec.extractLsb'_or, extract_place_self, extract_place_above, extract_place_below]
  rw [lane (i / 4) ⟨i % 4, by omega⟩, Nat.div_add_mod]

/-- The staging buffer after the four word writes of an `fset`. -/
def fsetFbuf (bs : List Nat) (fbuf : Vector Byte 16) : Vector Byte 16 :=
  fbufSetWord (fbufSetWord (fbufSetWord (fbufSetWord fbuf 0 (fsetWord bs 0)) 1 (fsetWord bs 1)) 2 (fsetWord bs 2)) 3
    (fsetWord bs 3)

/-- The four words cover all 16 bytes. -/
theorem fsetFbuf_getElem (bs : List Nat) (fbuf : Vector Byte 16) {i : Nat} (hi : i < 16) :
    (fsetFbuf bs fbuf)[i] = fsetByte bs i := by
  rw [← extract_fsetWord bs i]
  simp only [fsetFbuf, fbufSetWord_getElem]
  have word : i / 4 = 0 ∨ i / 4 = 1 ∨ i / 4 = 2 ∨ i / 4 = 3 := by omega
  rcases word with h | h | h | h <;> simp [h]

/-- One step of a run that goes on. -/
theorem run_core_succ {k : Nat} {s t : State} (h : step s = .next t) :
    Host.Core.run Sys2Proof.core (k + 1) s = Host.Core.run Sys2Proof.core k t := by
  have h' : Sys2Proof.core.step s = .next t := h
  simp only [Host.Core.run, h']

/-- The five accesses of `fset`, performed. -/
theorem run_fset {s : State} {bs : List Nat} {rest : List Input} (hlen : bs.length ≤ 16)
    (h : s.inputs = expandOp (.fset bs) ++ rest) :
    Host.Core.run Sys2Proof.core 5 s =
      .next { s with inputs := rest, fbuf := fsetFbuf bs s.fbuf, flen := flenOf bs.length } := by
  have toNat : (BitVec.ofNat 32 bs.length).toNat = (flenOf bs.length).val := by
    rw [flenOf_val _ hlen]
    exact Nat.mod_eq_of_lt (by omega)
  rw [run_core_succ (step_write (r := .fbuf 0) h), run_core_succ (step_write (r := .fbuf 1) rfl),
    run_core_succ (step_write (r := .fbuf 2) rfl), run_core_succ (step_write (r := .fbuf 3) rfl),
    run_core_succ (step_write (r := .flen) rfl), writeFlen_of_eq _ toNat]
  rfl

/-- Settles O14: the four word writes cover FBUF, and the length is that of the list. -/
theorem fsetLoadsStagingBuffer : Obligations.FsetLoadsStagingBuffer := by
  intro s bs a rest hlen hbytes assembled h
  have ha : expandOp (.fset bs) = a := by
    unfold assemble at assembled
    split at assembled
    · exact Option.some.inj assembled
    · cases assembled
  subst ha
  refine ⟨_, _, run_fset hlen h, fun i => ?_, flenOf_val _ hlen⟩
  have byte : bs.getD i.val 0 < 256 := by
    rcases Nat.lt_or_ge i.val bs.length with inside | outside
    · rw [List.getD_eq_getElem _ _ inside]; exact hbytes _ (List.getElem_mem _)
    · rw [List.getD_eq_default _ _ outside]; decide
  rw [Fin.getElem_fin, fsetFbuf_getElem bs s.fbuf i.isLt]
  exact Nat.mod_eq_of_lt byte

/-! ### The platform's reset -/

/-- Settles O57: the input is performed as it stands, and each field is that of the reset block. -/
theorem platformResetRestoresBlock : Obligations.PlatformResetRestoresBlock := by
  intro s rest h
  obtain ⟨session, txq, rxq, fbuf, flen, result, err, lastErr, status⟩ := resetStateIsAsSpecified
  exact ⟨State.platformReset { s with inputs := rest }, step_of_input h, session, txq, rxq, fbuf, flen, result, err, lastErr,
    status, rfl, rfl, rfl, rfl⟩

end Sys2Proof.Machine
end

section
/-! SUPPORT. `Update` and frames (spec/41_assembler.md R154). -/

namespace Sys2Proof.Machine

/-- A byte that makes the accumulator a frame of the target length completes it (R151, R154). -/
theorem update_of_isFrame {c : Params} {acc : List Byte} {b : Byte} (h : IsFrame c (acc ++ [b])) :
    update c acc b (acc.length + 1) = .complete (acc ++ [b]) := by
  have start : acc.head?.getD b = c.pStart := by simpa using h.start
  have stop : b = c.pEnd := by simpa using h.stop
  have sum : checksum (acc ++ [b]) = .ok ((acc ++ [b]).getD (acc.length - 1) 0) := by simpa using h.checksum_eq
  subst stop
  simp [update, start, sum]

/-- Settles O24: each check that Complete has passed is a clause of the frame. -/
theorem updateCompletesExactlyFrames : Obligations.UpdateCompletesExactlyFrames := by
  intro c acc a b T hT
  constructor
  · exact update_complete hT
  · rintro ⟨rfl, length, frame⟩
    have target : acc.length + 1 = T := by simpa using length
    rw [← target]
    exact update_of_isFrame frame

/-- Settles O25: a proper part of the frame has its start, and the last byte makes it whole. -/
theorem frameRoundTripsThroughAssembler : Obligations.FrameRoundTripsThroughAssembler := by
  intro c f frame k hk
  have grown : f.take k ++ [f[k]] = f.take (k + 1) := List.take_append_getElem hk
  have length : (f.take k).length = k := List.length_take_of_le hk.le
  split_ifs with more
  · have start : (f.take (k + 1)).head? = some c.pStart := by rw [List.head?_take, if_neg (by omega), frame.start]
    rw [update_of_short (by rwa [length]), grown, if_neg (not_not.mpr start)]
  · have whole : f.take (k + 1) = f := List.take_of_length_le (by omega)
    have last := update_of_isFrame (acc := f.take k) (b := f[k]) (by rwa [grown, whole])
    rwa [length, grown, whole, show k + 1 = f.length by omega] at last

/-- Settles O26: TooLong needs a full accumulator, and a fresh or Incomplete one is shorter than the target. -/
theorem freshAccumulatorNeverTooLong : Obligations.FreshAccumulatorNeverTooLong := by
  intro c acc b b' T hT hacc
  have short : acc.length < T := by
    rcases hacc with rfl | ⟨acc', h⟩
    · exact Nat.lt_of_lt_of_le (by decide) hT
    · exact (update_incomplete h).2.1
  rcases update_cases c acc b T with h | ⟨-, full⟩ | ⟨h, -⟩ | ⟨h, -⟩ | ⟨h, -⟩ | ⟨h, -⟩
  · simp [h]
  · omega
  all_goals simp [h]

end Sys2Proof.Machine
end

section
/-! SUPPORT. The Sending step, the wait states' timers, and what a progress step can change
(spec/42_session.md R177 to R187). -/

namespace Sys2Proof.Machine

section
variable {c : Params} {m : Moment} {s : State}

/-! ### Sending, by the line's answer -/

theorem sessionStep_of_sending {buf : List Byte} {cursor : Nat} (h : s.session = .sending buf cursor) :
    sessionStep c m s = stepSending c m buf cursor s := by
  rw [sessionStep, h]

section
variable {buf : List Byte} {cursor : Nat} (h : cursor < buf.length)
include h

theorem stepSending_ok (hw : m.write = .ok) :
    stepSending c m buf cursor s =
      .progress { s.handToLine buf[cursor] with session := .waitingEcho buf cursor (s.readNow c) } := by
  simp only [stepSending, List.getElem?_eq_getElem h, hw]

theorem stepSending_ioErr (hw : m.write = .ioErr) :
    stepSending c m buf cursor s = .progress (sessionError .ioError (s.handToLine buf[cursor])) := by
  simp only [stepSending, List.getElem?_eq_getElem h, hw]

theorem stepSending_never (hw : m.write = .never) : stepSending c m buf cursor s = .stuck .writeNeverAccepted := by
  simp only [stepSending, List.getElem?_eq_getElem h, hw]

theorem stepSending_held (hw : m.write = .heldToReset) :
    stepSending c m buf cursor s = .heldToReset (s.handToLine buf[cursor]) := by
  simp only [stepSending, List.getElem?_eq_getElem h, hw]

end

end

/-- Settles O33: the arm with the cursor in the buffer, by the line's answer. -/
theorem sendingStepWritesCursorByte : Obligations.SendingStepWritesCursorByte := by
  intro c m s buf cursor inside hs
  rw [sessionStep_of_sending hs]
  refine ⟨fun hw => ?_, fun hw => ?_, fun hw => ?_, fun hw => ?_⟩
  · rw [stepSending_ok inside hw]
    rfl
  · rw [stepSending_ioErr inside hw, sessionError, Err.bit_ioError, Err.code_ioError]
    rfl
  · rw [stepSending_never inside hw]
  · rw [stepSending_held inside hw]
    rfl

/-! ### The time waited (R175, R279) -/

/-- From a timer count that the port showed cut to its width, the elapsed time is the time waited, cut to that width. -/
theorem sub_mod_start (start waited bits : Nat) :
    (((start + waited : Nat) : Int) - ((start % 2 ^ bits : Nat) : Int)) % (2 : Int) ^ bits = ((waited % 2 ^ bits : Nat) : Int) := by
  push_cast
  rw [Int.sub_emod_emod, add_sub_cancel_left]

/-- A step that times out where a limit is over, quiescent exactly where it is not. -/
theorem ite_progress_quiescent_iff {P : Prop} [Decidable P] (t : State) :
    (if P then StepResult.progress t else .quiescent) = .quiescent ↔ ¬ P := by
  split_ifs with h <;> simp [h]

/-- Settles O37: both wait states compare the elapsed time, which is the time waited modulo the port's width. -/
theorem timerWrapHidesWait : Obligations.TimerWrapHidesWait := by
  intro c m s start waited hnow silent
  obtain ⟨-, echo⟩ := echoStepTimesOutStrictly
  obtain ⟨-, reply⟩ := replyStepReceivesOrTimesOut
  refine ⟨fun buf cursor hs => ?_, fun hs => ?_⟩
  · rw [echo c m s buf cursor _ hs silent, ite_progress_quiescent_iff, hnow, sub_mod_start, Nat.cast_lt, not_lt]
    exact ⟨Iff.rfl, fun small => by rw [Nat.mod_eq_of_lt small]⟩
  · rw [reply c m s _ hs, if_neg (not_not.mpr silent), ite_progress_quiescent_iff, hnow, sub_mod_start, Nat.cast_lt, not_lt]
    exact ⟨Iff.rfl, fun small => by rw [Nat.mod_eq_of_lt small]⟩

/-! ### The cases of `StepProgress` are steps -/

/-- Every case of `StepProgress` is a progress step. -/
theorem StepProgress.step {c : Params} {m : Moment} {s t : State} (h : StepProgress c m s t) : sessionStep c m s = .progress t := by
  cases h with
  | idleReceives hs hr => rw [sessionStep_of_idle hs, stepIdle, if_pos ((lineReadable_iff s).mpr hr)]
  | idleSends buf rest hs hr hq hb =>
    rw [sessionStep_of_idle hs]
    simp [stepIdle, lineReadable_iff, hr, hq, hb]
  | writes buf cursor v hs hv hw | writeFails buf cursor v hs hv hw =>
    rw [sessionStep_of_sending hs]
    simp only [stepSending, hv, hw]
  | echoFails buf cursor t0 rest hs hr => rw [sessionStep_of_waitingEcho hs, stepWaitingEcho_ioErr hr]
  | echoLast buf cursor t0 v rest hs hr hv hl | echoNext buf cursor t0 v rest hs hr hv hl =>
    rw [sessionStep_of_waitingEcho hs]
    simp [stepWaitingEcho, hr, hv, echoMatched, hl, State.readNow]
  | echoDiffers buf cursor t0 v w rest hs hr hv hd =>
    rw [sessionStep_of_waitingEcho hs]
    simp [stepWaitingEcho, hr, hv, hd]
  | echoLate buf cursor t0 hs hr ht => rw [sessionStep_of_waitingEcho hs, stepWaitingEcho_silent hr, if_pos ht]
  | replyReadable t0 hs hr =>
    rw [sessionStep_of_waitingReply hs, stepWaitingReply, if_pos ((lineReadable_iff s).mpr hr)]
  | replyLate t0 hs hr ht =>
    rw [sessionStep_of_waitingReply hs, stepWaitingReply, if_neg (by simp [lineReadable_iff, hr]), if_pos ht]
  | receiveFails acc rest hs hr => rw [sessionStep_of_receiving hs, stepReceiving_ioErr hr]
  | receives acc v rest hs hr => rw [sessionStep_of_receiving hs, stepReceiving_byte hr]

/-! ### What a step does to the error registers -/

/-- The state with no error recorded. -/
def State.withoutErrors (s : State) : State := { s with err := 0, lastErr := 0 }

/-- The line after a step that raised an error: untouched, or with its oldest item taken, or with the byte at the cursor of
a Sending session handed to it. -/
def LineAfterError (s : State) (line : Line) : Prop :=
  line = s.line ∨ (∃ item, s.line = { line with rx := item :: line.rx }) ∨
    ∃ buf cursor v, s.session = .sending buf cursor ∧ buf[cursor]? = some v ∧
      line = { s.line with handed := s.line.handed ++ [v] }

/-- How a progress step from `s` treats errors: it keeps the error registers, or it raises one error, goes to Idle and
changes the line at most. Either way it does not read them: `clean` is the same step's state from `s` without errors. -/
inductive ErrorsOfStep (s t clean : State) : Prop
  | keeps (herr : s.SameErrors t) (hclean : clean = t.withoutErrors)
  | raises (e : Err) (line : Line) (hline : LineAfterError s line)
      (ht : t = { s with session := .idle, line := line, err := s.err ||| e.bit, lastErr := e.code })
      (hclean : clean = { s with session := .idle, line := line, err := e.bit, lastErr := e.code })

/-- A step that raises an error, from the same state with and without errors recorded. -/
theorem ErrorsOfStep.of_sessionError {s : State} (e : Err) {line : Line} (hline : LineAfterError s line) :
    ErrorsOfStep s (sessionError e { s with line := line }) (sessionError e { s.withoutErrors with line := line }) :=
  .raises e line hline rfl (by simp [sessionError, State.withoutErrors])

/-- Every progress step treats errors so (R235), and is the same step where no error is recorded. -/
theorem sessionStep_errors {c : Params} {m : Moment} {s t : State} (h : sessionStep c m s = .progress t) :
    ∃ clean, StepProgress c m s.withoutErrors clean ∧ ErrorsOfStep s t clean := by
  have taken {item : RxItem} {rest : List RxItem} (hr : s.line.rx = item :: rest) :
      LineAfterError s { s.line with rx := rest } := .inr (.inl ⟨item, by rw [← hr]⟩)
  cases sessionStep_progress h with
  | idleReceives hs hr => exact ⟨_, .idleReceives hs hr, .keeps ⟨rfl, rfl⟩ rfl⟩
  | idleSends buf rest hs hr hq hb =>
    exact ⟨_, .idleSends buf rest hs hr hq hb, .keeps ⟨rfl, rfl⟩ rfl⟩
  | writes buf cursor v hs hv hw => exact ⟨_, .writes buf cursor v hs hv hw, .keeps ⟨rfl, rfl⟩ rfl⟩
  | writeFails buf cursor v hs hv hw =>
    exact ⟨_, .writeFails buf cursor v hs hv hw,
      .of_sessionError .ioError (.inr (.inr ⟨buf, cursor, v, hs, hv, rfl⟩))⟩
  | echoFails buf cursor t0 rest hs hr =>
    exact ⟨_, .echoFails buf cursor t0 rest hs hr, .of_sessionError .ioError (taken hr)⟩
  | echoLast buf cursor t0 v rest hs hr hv hl =>
    exact ⟨_, .echoLast buf cursor t0 v rest hs hr hv hl, .keeps ⟨rfl, rfl⟩ rfl⟩
  | echoNext buf cursor t0 v rest hs hr hv hl =>
    exact ⟨_, .echoNext buf cursor t0 v rest hs hr hv hl, .keeps ⟨rfl, rfl⟩ rfl⟩
  | echoDiffers buf cursor t0 v w rest hs hr hv hd =>
    exact ⟨_, .echoDiffers buf cursor t0 v w rest hs hr hv hd, .of_sessionError .echoMismatch (taken hr)⟩
  | echoLate buf cursor t0 hs hr ht =>
    exact ⟨_, .echoLate buf cursor t0 hs hr ht, .of_sessionError .echoTimeout (.inl rfl)⟩
  | replyReadable t0 hs hr => exact ⟨_, .replyReadable t0 hs hr, .keeps ⟨rfl, rfl⟩ rfl⟩
  | replyLate t0 hs hr ht =>
    exact ⟨_, .replyLate t0 hs hr ht, .of_sessionError .replyTimeout (.inl rfl)⟩
  | receiveFails acc rest hs hr =>
    exact ⟨_, .receiveFails acc rest hs hr, .of_sessionError .ioError (taken hr)⟩
  | receives acc v rest hs hr =>
    refine ⟨_, .receives acc v rest hs hr, ?_⟩
    rcases received_cases c acc v (s.takeRx rest) with ⟨acc', hu, e⟩ | ⟨f, hu, room, e⟩ | ⟨f, hu, full, e⟩ | ⟨r, hu, e⟩
    · rw [e, received_incomplete hu]
      exact .keeps ⟨rfl, rfl⟩ rfl
    · rw [e, received_complete_of_room hu (by exact room)]
      exact .keeps ⟨rfl, rfl⟩ rfl
    · rw [e, received_complete_of_full hu (by exact full)]
      exact .of_sessionError .rxQueueFull (taken hr)
    · rw [e, received_invalid hu]
      exact .of_sessionError r.err (taken hr)

/-- Settles O40: a step that keeps the error registers leaves them 0 where they were, and one that raises an error shows
its code. -/
theorem sessionErrorsReturnToIdle : Obligations.SessionErrorsReturnToIdle := by
  intro c m s t h
  obtain ⟨clean, hclean, errors⟩ := sessionStep_errors h
  refine ⟨clean, hclean.step, ?_⟩
  cases errors with
  | keeps herr e =>
    subst e
    exact ⟨fun _ => ⟨rfl, herr⟩, fun raised => absurd rfl raised⟩
  | raises e line hline ht ec =>
    subst ec
    exact ⟨fun none => absurd none (err_code_ne_zero e), fun _ => ⟨e, line, rfl, rfl, ht, hline⟩⟩

/-! ### The send queue, the sending states and the receive queue -/

/-- A received byte leaves the send queue, and the session is Receiving or Idle after it. -/
theorem received_sends_nothing (c : Params) (acc : List Byte) (v : Byte) (s : State) :
    (received c acc v s).txq = s.txq ∧
      ((received c acc v s).session = .idle ∨ ∃ acc', (received c acc v s).session = .receiving acc') := by
  rcases received_cases c acc v s with ⟨acc', -, e⟩ | ⟨f, -, -, e⟩ | ⟨f, -, -, e⟩ | ⟨r, -, e⟩ <;> rw [e]
  · exact ⟨rfl, .inr ⟨acc', rfl⟩⟩
  all_goals exact ⟨rfl, .inl rfl⟩

/-- Settles O41: of the progress steps, each sending state is entered by the ones that the clause names. -/
theorem sendsStartFromIdleOnly : Obligations.SendsStartFromIdleOnly := by
  intro c m s t h
  cases sessionStep_progress h with
  | idleSends buf rest hs hr hq hb =>
    exact ⟨.inr ⟨hs, hr, hb, buf, hq, rfl⟩, fun _ _ e => by cases e; exact .inl ⟨hs, rfl, hq⟩, nofun, nofun⟩
  | writes buf cursor v hs hv hw => exact ⟨.inl rfl, nofun, fun _ _ _ e => by cases e; exact hs, nofun⟩
  | echoLast buf cursor t0 v rest hs hr hv hl =>
    exact ⟨.inl rfl, nofun, nofun, fun _ _ => ⟨buf, cursor, t0, hs, hl⟩⟩
  | echoNext buf cursor t0 v rest hs hr hv hl =>
    exact ⟨.inl rfl, fun _ _ e => by cases e; exact .inr ⟨rfl, cursor, t0, rfl, hs⟩, nofun, nofun⟩
  | receives acc v rest hs hr =>
    obtain ⟨htxq, idle | ⟨acc', receiving⟩⟩ := received_sends_nothing c acc v (s.takeRx rest)
    · simp [htxq, idle]
    · simp [htxq, receiving]
  | idleReceives | writeFails | echoFails | echoDiffers | echoLate | replyReadable | replyLate | receiveFails =>
    exact ⟨.inl rfl, nofun, nofun, nofun⟩

/-- Settles O42: only the completed frame of a Receiving step, with room for it, changes the receive queue. -/
theorem onlyFramesEnterReceiveQueue : Obligations.OnlyFramesEnterReceiveQueue := by
  intro c m s t hlen h changed
  cases sessionStep_progress h with
  | receives acc v rest hs hr =>
    rcases received_cases c acc v (s.takeRx rest) with ⟨acc', -, e⟩ | ⟨f, hu, room, e⟩ | ⟨f, -, -, e⟩ | ⟨r, -, e⟩ <;>
      rw [e] at changed ⊢
    · exact absurd rfl changed
    · obtain ⟨-, length, frame⟩ := update_complete hlen hu
      exact ⟨f, rfl, length, frame, room, rfl⟩
    · exact absurd rfl changed
    · exact absurd rfl changed
  | _ => exact absurd rfl changed

end Sys2Proof.Machine
end

section
/-! SUPPORT. What a progress step leaves alone, and when a session step is quiescent or stuck (spec/42_session.md R186). -/

namespace Sys2Proof.Machine

/-- The staging buffer, the host's accesses and the record of reads are as before (R42, R55). -/
def State.SameHost (s t : State) : Prop := s.SameStaging t ∧ t.inputs = s.inputs ∧ t.reads = s.reads

theorem State.SameHost.refl (s : State) : s.SameHost s := ⟨⟨rfl, rfl⟩, rfl, rfl⟩

theorem State.SameHost.trans {s t u : State} (h : s.SameHost t) (h' : t.SameHost u) : s.SameHost u := by
  obtain ⟨⟨hfbuf, hflen⟩, hinputs, hreads⟩ := h
  obtain ⟨⟨hfbuf', hflen'⟩, hinputs', hreads'⟩ := h'
  exact ⟨⟨hfbuf'.trans hfbuf, hflen'.trans hflen⟩, hinputs'.trans hinputs, hreads'.trans hreads⟩

section
variable {c : Params} {m : Moment} {s t : State}

/-- No session step touches the staging buffer or what the host does (R42). -/
theorem sessionStep_sameHost (h : sessionStep c m s = .progress t) : s.SameHost t := by
  cases sessionStep_progress h with
  | receives acc v rest hs hr =>
    rcases received_cases c acc v (s.takeRx rest) with ⟨_, _, e⟩ | ⟨_, _, _, e⟩ | ⟨_, _, _, e⟩ | ⟨_, _, e⟩ <;>
      exact e ▸ ⟨⟨rfl, rfl⟩, rfl, rfl⟩
  | _ => exact ⟨⟨rfl, rfl⟩, rfl, rfl⟩

/-- A quiescent step finds nothing readable and no byte to write, and in Idle nothing to send on a free line (R176 to R182). -/
theorem sessionStep_quiescent (h : sessionStep c m s = .quiescent) :
    s.line.rx = [] ∧ (∀ buf cursor, s.session ≠ .sending buf cursor) ∧
      (s.session = .idle → s.txq = [] ∨ m.busy = true) := by
  unfold sessionStep at h
  cases hs : s.session with
  | idle =>
    simp only [hs, stepIdle] at h
    split at h
    · cases h
    · next silent =>
      refine ⟨by simpa [lineReadable_iff] using silent, nofun, fun _ => ?_⟩
      split at h
      · next hq => exact .inl hq
      · split at h
        · next hb => exact .inr hb
        · cases h
  | sending buf cursor =>
    simp only [hs, stepSending] at h
    repeat' split at h
    all_goals cases h
  | waitingEcho buf cursor t0 =>
    simp only [hs, stepWaitingEcho] at h
    split at h
    · cases h
    · repeat' split at h
      all_goals cases h
    · next silent => exact ⟨silent, nofun, nofun⟩
  | waitingReply t0 =>
    simp only [hs, stepWaitingReply] at h
    split at h
    · cases h
    · next silent => exact ⟨by simpa [lineReadable_iff] using silent, nofun, nofun⟩
  | receiving acc =>
    simp only [hs, stepReceiving] at h
    split at h
    · next silent => exact ⟨silent, nofun, nofun⟩
    · cases h
    · cases h

/-- A step is stuck only with a write that the line never accepts, or with its cursor outside the buffer (R33, R172). -/
theorem sessionStep_stuck {f : Fault} (h : sessionStep c m s = .stuck f) : m.write = .never ∨ ¬ s.session.Good c := by
  unfold sessionStep at h
  cases hs : s.session with
  | idle =>
    simp only [hs, stepIdle] at h
    repeat' split at h
    all_goals cases h
  | sending buf cursor =>
    simp only [hs, stepSending] at h
    split at h
    · next outside => exact .inr fun ⟨inside, _⟩ => by simp [inside] at outside
    · split at h
      · cases h
      · cases h
      · next hw => exact .inl hw
      · cases h
  | waitingEcho buf cursor t0 =>
    simp only [hs, stepWaitingEcho] at h
    split at h
    · cases h
    · split at h
      · next outside => exact .inr fun ⟨inside, _⟩ => by simp [inside] at outside
      · split at h <;> cases h
    · split at h <;> cases h
  | waitingReply t0 =>
    simp only [hs, stepWaitingReply] at h
    repeat' split at h
    all_goals cases h
  | receiving acc =>
    simp only [hs, stepReceiving] at h
    repeat' split at h
    all_goals cases h

end

end Sys2Proof.Machine
end

section
/-! SUPPORT. TICK's loop, one step at a time (spec/42_session.md R190, R191). -/

namespace Sys2Proof.Machine

/-! ### One turn of the loop, by what its session step does -/

section
variable {c : Params} {fuel : Nat} {any rep : Bool} {s : State}

theorem tickLoop_of_flooding (h : s.line.flooding = true) : tickLoop c fuel any rep s = .fault .tickNeverEnds := by
  cases fuel with
  | zero => rfl
  | succ fuel => rw [tickLoop, if_pos h]

theorem tickLoop_of_reset (hflood : s.line.flooding = false) (hreset : s.line.nextMoment.reset = true) :
    tickLoop c (fuel + 1) any rep s = .next s.beginStep.platformReset := by
  simp [tickLoop, hflood, hreset]

variable (hflood : s.line.flooding = false) (hreset : s.line.nextMoment.reset = false)
include hflood hreset

theorem tickLoop_of_progress {s' : State} (h : sessionStep c s.line.nextMoment s.beginStep = .progress s') :
    tickLoop c (fuel + 1) any rep s = tickLoop c fuel true rep s' := by
  simp [tickLoop, hflood, hreset, h]

theorem tickLoop_of_stuck {f : Fault} (h : sessionStep c s.line.nextMoment s.beginStep = .stuck f) :
    tickLoop c (fuel + 1) any rep s = .fault f := by
  simp [tickLoop, hflood, hreset, h]

theorem tickLoop_of_held {s' : State} (h : sessionStep c s.line.nextMoment s.beginStep = .heldToReset s') :
    tickLoop c (fuel + 1) any rep s = .next s'.platformReset := by
  simp [tickLoop, hflood, hreset, h]

theorem tickLoop_of_end (h : sessionStep c s.line.nextMoment s.beginStep = .quiescent)
    (last : c.pRepoll = false ∨ rep = true) :
    tickLoop c (fuel + 1) any rep s = .next { s.beginStep with result := tickResultWord any } := by
  rcases last with last | last <;> simp [tickLoop, hflood, hreset, h, last]

theorem tickLoop_of_repoll (h : sessionStep c s.line.nextMoment s.beginStep = .quiescent) (repoll : c.pRepoll = true) :
    tickLoop c (fuel + 1) any false s = tickLoop c fuel any true (s.beginStep.wait c.pRepollDelayUs) := by
  simp [tickLoop, hflood, hreset, h, repoll]

end

/-- At a quiescent step the loop ends, or the re-poll is to come (R190). -/
theorem ends_or_repolls (c : Params) (rep : Bool) : (c.pRepoll = false ∨ rep = true) ∨ (c.pRepoll = true ∧ rep = false) := by
  cases c.pRepoll <;> cases rep <;> simp

theorem tickResultWord_eq (any : Bool) : tickResultWord any = if any then 0x00010001 else 0x00010000 := by
  cases any <;> decide

/-- A line whose script has moments left, or that falls silent after them, does not flood. -/
theorem Line.not_flooding_of_quiet {l : Line} (h : l.ending = .quiet) : l.flooding = false := by
  simp [Line.flooding, h]

/-- A moment of the script, or the quiet moment after its end. -/
theorem Line.nextMoment_mem (l : Line) : l.nextMoment ∈ l.script ∨ l.nextMoment = {} := by
  unfold Line.nextMoment
  cases l.script with
  | nil => exact .inr rfl
  | cons m ms => exact .inl (by simp)

/-- The steps that the loop may still need: its bound, the last step, and the step before the re-poll where it is to come. -/
def State.stepsLeft (rep : Bool) (s : State) : Nat := s.tickBound + if rep then 1 else 2

theorem stepsLeft_progress {c : Params} {s t : State} {rep : Bool}
    (h : sessionStep c s.line.nextMoment s.beginStep = .progress t) : t.stepsLeft rep < s.stepsLeft rep := by
  have lower := progress_lowers_bound h
  rw [beginStep_bound] at lower
  unfold State.stepsLeft
  omega

theorem stepsLeft_repoll (us : Nat) (s : State) : (s.beginStep.wait us).stepsLeft true < s.stepsLeft false := by
  have same : (s.beginStep.wait us).tickBound = s.tickBound := beginStep_bound s
  simp [State.stepsLeft, same]

theorem stepsLeft_pos (rep : Bool) (s : State) : 0 < s.stepsLeft rep := by
  unfold State.stepsLeft
  split <;> omega

/-! ### The loop and R190's pseudocode -/

section
variable {c : Params}

/-- A silent script stays so in the next state of the loop. -/
theorem quiet_of_progress {s s' : State} (hquiet : s.line.ending = .quiet)
    (h : sessionStep c s.line.nextMoment s.beginStep = .progress s') : s'.line.ending = .quiet := by
  obtain ⟨-, hending⟩ := progress_script h
  rw [hending]
  exact hquiet

/-- What the loop completes in, the pseudocode ends in (R190). -/
theorem tickRun_of_tickLoop {fuel : Nat} {any rep : Bool} {s t : State} (hl : s.line.NoReset) (hquiet : s.line.ending = .quiet)
    (h : tickLoop c fuel any rep s = .next t) : TickRun c any rep s t := by
  induction fuel generalizing any rep s with
  | zero => cases h
  | succ fuel ih =>
    have hflood := Line.not_flooding_of_quiet hquiet
    have hreset := hl.nextMoment.1
    cases hstep : sessionStep c s.line.nextMoment s.beginStep with
    | progress s' =>
      rw [tickLoop_of_progress hflood hreset hstep] at h
      exact .progress _ _ _ s' _ hstep (ih (hl.beginStep.progress hstep) (quiet_of_progress hquiet hstep) h)
    | quiescent =>
      rcases ends_or_repolls c rep with last | ⟨repoll, rfl⟩
      · rw [tickLoop_of_end hflood hreset hstep last, tickResultWord_eq] at h
        cases h
        exact .ends _ _ _ hstep last
      · rw [tickLoop_of_repoll hflood hreset hstep repoll] at h
        exact .repoll _ _ _ hstep repoll (ih hl.beginStep hquiet h)
    | heldToReset s' => exact absurd (sessionStep_heldToReset hstep) hl.nextMoment.2
    | stuck f =>
      rw [tickLoop_of_stuck hflood hreset hstep] at h
      cases h

/-- What the pseudocode ends in, the loop completes in, with the steps that TICK gives it (R190, R191). -/
theorem tickLoop_of_tickRun {any rep : Bool} {s t : State} (h : TickRun c any rep s t) :
    ∀ {fuel : Nat}, s.line.NoReset → s.line.ending = .quiet → s.stepsLeft rep ≤ fuel → tickLoop c fuel any rep s = .next t := by
  induction h with
  | progress any rep s s' t hstep _ ih =>
    intro fuel hl hquiet hfuel
    have fewer := stepsLeft_progress (rep := rep) hstep
    obtain ⟨k, rfl⟩ : ∃ k, fuel = k + 1 := ⟨fuel - 1, by omega⟩
    rw [tickLoop_of_progress (Line.not_flooding_of_quiet hquiet) hl.nextMoment.1 hstep]
    exact ih (hl.beginStep.progress hstep) (quiet_of_progress hquiet hstep) (by omega)
  | repoll any s t hstep repoll _ ih =>
    intro fuel hl hquiet hfuel
    have fewer := stepsLeft_repoll c.pRepollDelayUs s
    obtain ⟨k, rfl⟩ : ∃ k, fuel = k + 1 := ⟨fuel - 1, by omega⟩
    rw [tickLoop_of_repoll (Line.not_flooding_of_quiet hquiet) hl.nextMoment.1 hstep repoll]
    exact ih hl.beginStep hquiet (by omega)
  | ends any rep s hstep last =>
    intro fuel hl hquiet hfuel
    have positive := stepsLeft_pos rep s
    obtain ⟨k, rfl⟩ : ∃ k, fuel = k + 1 := ⟨fuel - 1, by omega⟩
    rw [tickLoop_of_end (Line.not_flooding_of_quiet hquiet) hl.nextMoment.1 hstep last, tickResultWord_eq]

end

/-- Settles O43: the only word of its row, and the loop and the pseudocode in both directions. -/
theorem tickRunsStepsUntilQuiescent : Obligations.TickRunsStepsUntilQuiescent := by
  refine ⟨encodedExactly_of_no_operand (name := "TICK") (word := 0x01) (cmd := .tick) (by simp [opcodeMap]),
    fun s => rfl, fun c s t hl hquiet => ⟨tickRun_of_tickLoop hl hquiet, fun h => ?_⟩⟩
  exact tickLoop_of_tickRun h hl hquiet le_rfl

/-! ### Lines on which the loop ends, and lines on which it does not -/

section
variable {c : Params}

theorem Line.Live.nextMoment {l : Line} (h : l.Live) : l.nextMoment.write ≠ .never := by
  obtain ⟨-, hwrite⟩ := h
  rcases l.nextMoment_mem with hm | hm
  · exact hwrite _ hm
  · rw [hm]; nofun

theorem Line.Live.beginStep {s : State} (h : s.line.Live) : s.beginStep.line.Live :=
  ⟨h.1, fun m hm => h.2 m (List.mem_of_mem_tail hm)⟩

theorem Line.Live.progress {m : Moment} {s t : State} (hl : s.line.Live) (h : sessionStep c m s = .progress t) :
    t.line.Live := by
  obtain ⟨hscript, hending⟩ := progress_script h
  rwa [Line.Live, hscript, hending]

/-- The loop completes on a live line, with the steps that TICK gives it, on every admitted configuration (R191). -/
theorem tickLoop_ends {fuel : Nat} {any rep : Bool} {s : State} (hc : 3 ≤ c.pRxLen) (good : s.GoodOn c) (hl : s.line.Live)
    (hfuel : s.stepsLeft rep ≤ fuel) : ∃ t, tickLoop c fuel any rep s = .next t := by
  induction fuel generalizing any rep s with
  | zero => exact absurd hfuel (Nat.not_le.mpr (stepsLeft_pos rep s))
  | succ fuel ih =>
    have hflood := Line.not_flooding_of_quiet hl.1
    cases hreset : s.line.nextMoment.reset with
    | true => exact ⟨_, tickLoop_of_reset hflood hreset⟩
    | false =>
      cases hstep : sessionStep c s.line.nextMoment s.beginStep with
      | progress s' =>
        have fewer := stepsLeft_progress (rep := rep) hstep
        rw [tickLoop_of_progress hflood hreset hstep]
        exact ih (sessionStep_keepsGood hc good.beginStep hstep) (hl.beginStep.progress hstep) (by omega)
      | quiescent =>
        rcases ends_or_repolls c rep with last | ⟨repoll, rfl⟩
        · exact ⟨_, tickLoop_of_end hflood hreset hstep last⟩
        · have fewer := stepsLeft_repoll c.pRepollDelayUs s
          rw [tickLoop_of_repoll hflood hreset hstep repoll]
          exact ih (good.beginStep.withEnv _ _ _ _) hl.beginStep (by omega)
      | heldToReset s' => exact ⟨_, tickLoop_of_held hflood hreset hstep⟩
      | stuck f =>
        rcases sessionStep_stuck hstep with never | bad
        · exact absurd never hl.nextMoment
        · exact absurd good.session bad

end

/-- Settles O44: the steps that TICK gives its loop are enough on a live line. -/
theorem tickEndsOnLiveLine : Obligations.TickEndsOnLiveLine := by
  intro s good hl
  exact tickLoop_ends (Params.pRxLen_ge_of_valid Params.hw_valid) good hl le_rfl

/-- While such a line floods and answers, each step makes progress, so the loop never completes (R191). -/
theorem tickLoop_of_floods {c : Params} {fuel : Nat} {any rep : Bool} {s : State} (hc : 3 ≤ c.pRxLen) (good : s.GoodOn c)
    (hending : s.line.ending = .floods)
    (hscript : ∀ m ∈ s.line.script, m.reset = false ∧ m.write ≠ .never ∧ m.write ≠ .heldToReset ∧ m.arrive ≠ []) :
    tickLoop c fuel any rep s = .fault .tickNeverEnds := by
  induction fuel generalizing any rep s with
  | zero => rfl
  | succ fuel ih =>
    cases hflood : s.line.flooding with
    | true => exact tickLoop_of_flooding hflood
    | false =>
      have more : s.line.nextMoment ∈ s.line.script := by
        cases hs : s.line.script with
        | nil => simp [Line.flooding, hs, hending] at hflood
        | cons m ms => simp [Line.nextMoment, hs]
      obtain ⟨hreset, answered, unheld, arrives⟩ := hscript _ more
      cases hstep : sessionStep c s.line.nextMoment s.beginStep with
      | progress s' =>
        obtain ⟨script', ending'⟩ := progress_script hstep
        rw [tickLoop_of_progress hflood hreset hstep]
        refine ih (sessionStep_keepsGood hc good.beginStep hstep) (ending'.trans hending) fun m hm => ?_
        rw [script'] at hm
        exact hscript m (List.mem_of_mem_tail hm)
      | quiescent =>
        obtain ⟨silent, -, -⟩ := sessionStep_quiescent hstep
        obtain ⟨-, none_arrives⟩ := List.append_eq_nil_iff.mp silent
        exact absurd none_arrives arrives
      | heldToReset s' => exact absurd (sessionStep_heldToReset hstep) unheld
      | stuck f =>
        rcases sessionStep_stuck hstep with never | bad
        · exact absurd never answered
        · exact absurd good.session bad

/-- Settles O51: the line never lets a step be quiescent before its script has ended, and then it floods. -/
theorem floodingLineHoldsTick : Obligations.FloodingLineHoldsTick := by
  intro s good hending hscript
  exact tickLoop_of_floods (Params.pRxLen_ge_of_valid Params.hw_valid) good hending hscript

/-! ### What a TICK that completes has done -/

/-- A TICK that completes began on a line that does not flood. -/
theorem not_flooding_of_runTick {c : Params} {s t : State} (h : runTick c s = .next t) : s.line.flooding = false := by
  cases hflood : s.line.flooding with
  | false => rfl
  | true =>
    rw [runTick, tickLoop_of_flooding hflood] at h
    cases h

/-- RESULT of a TICK that no reset abandons, after a step that made progress (R190). -/
theorem runTick_result_of_progress {c : Params} {s s' t : State} (hl : s.line.NoReset)
    (hstep : sessionStep c s.line.nextMoment s.beginStep = .progress s') (h : runTick c s = .next t) :
    t.result = 0x00010001 := by
  have hflood := not_flooding_of_runTick h
  rw [runTick, State.tickFuel, tickLoop_of_progress hflood hl.nextMoment.1 hstep] at h
  have ends := tickLoop_next (P := fun u => u.line.NoReset) (fun u v hu hp => hu.beginStep.progress hp)
    (fun u hu _ => hu.beginStep) _ true false s' t (hl.beginStep.progress hstep) h
  rcases ends with ⟨u, any, -, progressed, -, rfl⟩ | ⟨u, hu, hr, -⟩ | ⟨u, v, hu, hheld, -⟩
  · rw [progressed rfl]
    exact tickResultWord_eq true
  · simp [hu.nextMoment.1] at hr
  · exact absurd (sessionStep_heldToReset hheld) hu.nextMoment.2

/-- Settles O45: a first step that is not quiescent made progress, since the TICK completes. -/
theorem tickReportsProgress : Obligations.TickReportsProgress := by
  intro s t hl h
  have hflood := not_flooding_of_runTick h
  constructor
  · intro quiescent
    have run := (runTick_of_quiescent rfl hflood hl.nextMoment.1 quiescent).symm.trans h
    cases run
    rw [tickResultWord_eq]
    rfl
  · intro active
    cases hstep : sessionStep Params.hw s.line.nextMoment s.beginStep with
    | progress s' => exact runTick_result_of_progress hl hstep h
    | quiescent => exact absurd hstep active
    | heldToReset s' => exact absurd (sessionStep_heldToReset hstep) hl.nextMoment.2
    | stuck f =>
      have fault : exec .tick s = .fault f := tickLoop_of_stuck hflood hl.nextMoment.1 hstep
      rw [fault] at h
      cases h

/-- Settles O46: the last step is quiescent, and a busy moment is one of the script's. -/
theorem tickEndsQuiescent : Obligations.TickEndsQuiescent := by
  intro s t hl h
  obtain ⟨u, any, suffix, -, quiescent, rfl⟩ := runTick_next_of_noReset (P := fun u => u.line.script ⊆ s.line.script)
    (fun u v hu hp => by rw [(progress_script hp).1]; exact List.Subset.trans (List.tail_subset _) hu)
    (fun u hu _ => List.Subset.trans (List.tail_subset _) hu) (List.Subset.refl _) hl h
  obtain ⟨silent, notSending, idle⟩ := sessionStep_quiescent quiescent
  refine ⟨silent, notSending, fun hidle queued => ?_⟩
  have busy : u.line.nextMoment.busy = true := (idle hidle).resolve_left queued
  rcases u.line.nextMoment_mem with hm | hm
  · exact ⟨_, suffix hm, busy⟩
  · simp [hm] at busy

/-- Settles O47: no step of the loop touches them. -/
theorem tickKeepsStagingBuffer : Obligations.TickKeepsStagingBuffer := by
  intro s t hl h
  obtain ⟨u, any, same, -, -, rfl⟩ := runTick_next_of_noReset (P := s.SameHost)
    (fun u v hu hp => hu.trans (t := u.beginStep) (sessionStep_sameHost hp)) (fun u hu _ => hu) (.refl s) hl h
  exact same

/-! ### LAST_ERR -/

/-- From `s` to `t` no bit of ERR is cleared, and LAST_ERR is as before or the code of an error whose bit is set (R48). -/
def State.NamesLastErr (s t : State) : Prop :=
  s.KeepsErr t ∧ (t.lastErr = s.lastErr ∨ ∃ e : Err, t.lastErr = e.code ∧ t.err.getLsbD e.code.toNat = true)

theorem State.SameErrors.namesLastErr {s t : State} (h : s.SameErrors t) : s.NamesLastErr t :=
  ⟨.of_err_eq h.1, .inl h.2⟩

theorem State.NamesLastErr.of_raise {s t : State} (e : Err) (herr : t.err = s.err ||| e.bit) (hlast : t.lastErr = e.code) :
    s.NamesLastErr t :=
  ⟨State.RaisesAtMostOne.keepsErr (.inr ⟨e, herr⟩), .inr ⟨e, hlast, by simp [herr, getLsbD_err_bit]⟩⟩

/-- A bit of ERR that is set stays set (R47). -/
theorem State.KeepsErr.getLsbD {s t : State} (h : s.KeepsErr t) {n : Nat} (hn : s.err.getLsbD n = true) :
    t.err.getLsbD n = true := by
  rw [State.KeepsErr] at h
  rw [← h, BitVec.getLsbD_and, Bool.and_eq_true] at hn
  exact hn.2

theorem State.NamesLastErr.trans {s t u : State} (h : s.NamesLastErr t) (h' : t.NamesLastErr u) : s.NamesLastErr u := by
  obtain ⟨keeps, names⟩ := h
  obtain ⟨keeps', names'⟩ := h'
  refine ⟨keeps.trans keeps', ?_⟩
  rcases names' with same' | raised
  · rw [same']
    rcases names with same | ⟨e, code, set⟩
    · exact .inl same
    · exact .inr ⟨e, code, keeps'.getLsbD set⟩
  · exact .inr raised

/-- A session step records errors so (R234). -/
theorem sessionStep_namesLastErr {c : Params} {m : Moment} {s t : State} (h : sessionStep c m s = .progress t) :
    s.NamesLastErr t := by
  obtain ⟨clean, -, errors⟩ := sessionStep_errors h
  cases errors with
  | keeps herr _ => exact herr.namesLastErr
  | raises e line _ ht _ => subst ht; exact .of_raise e rfl rfl

/-- A command records errors so, on any configuration (R48, R234). -/
theorem execOn_namesLastErr {c : Params} {i : Instr} {s t : State} (hl : s.line.NoReset) (h : execOn c i s = .next t) :
    s.NamesLastErr t := by
  by_cases hi : i = .tick
  · subst hi
    obtain ⟨u, any, names, -, -, rfl⟩ := runTick_next_of_noReset (P := s.NamesLastErr)
      (fun u v hu hp => hu.trans (t := u.beginStep) (sessionStep_namesLastErr hp)) (fun u hu _ => hu)
      (State.SameErrors.namesLastErr ⟨rfl, rfl⟩) hl h
    exact names
  · cases execOn_effect hi h with
    | faults e => exact .of_raise e rfl rfl
    | stages | queues | pops => exact State.SameErrors.namesLastErr ⟨rfl, rfl⟩

/-- Settles O49: a code is 1 to 12, and the bit of the error that was named is set. -/
theorem lastErrNamesSetBit : Obligations.LastErrNamesSetBit := by
  intro i s t hl h changed
  rw [← execOn_hw] at h
  obtain ⟨-, same | ⟨e, code, set⟩⟩ := execOn_namesLastErr hl h
  · exact absurd same changed
  · rw [code]
    exact ⟨(err_code_toNat e).1, (err_code_toNat e).2, set⟩

end Sys2Proof.Machine
end

section
/-! SUPPORT. A TICK from a state that its loop reaches by progress steps: what holds or abandons it, and how it ends
(spec/42_session.md R172, R190, spec/70_reset_and_hazards.md R260). -/

namespace Sys2Proof.Machine

section
variable {c : Params} {s u v : State}

theorem TickReaches.trans (h : TickReaches c s u) (h' : TickReaches c u v) : TickReaches c s v := by
  induction h with
  | here => exact h'
  | later s s' u hr hs _ ih => exact .later s s' v hr hs (ih h')

/-- One progress step, with no reset by the platform before it. -/
theorem TickReaches.one (hr : s.line.nextMoment.reset = false)
    (h : sessionStep c s.line.nextMoment s.beginStep = .progress u) : TickReaches c s u :=
  .later s u u hr h (.here u)

theorem TickReaches.sameHost (h : TickReaches c s u) : s.SameHost u := by
  induction h with
  | here s => exact .refl s
  | later s s' u _ hs _ ih => exact State.SameHost.trans (t := s') (sessionStep_sameHost (s := s.beginStep) hs) ih

theorem TickReaches.noReset (h : TickReaches c s u) (hl : s.line.NoReset) : u.line.NoReset := by
  induction h with
  | here => exact hl
  | later s s' u _ hs _ ih => exact ih (hl.beginStep.progress hs)

/-- A TICK goes on from every state that its loop reaches, with at least one step left (R191). -/
theorem runTick_of_reaches (h : TickReaches c s u) (hu : u.line.flooding = false) :
    ∃ (k : Nat) (any : Bool), runTick c s = tickLoop c (k + 1) any false u := by
  obtain ⟨fuel, any, enough, e⟩ := tickLoop_of_reaches h hu s.tickFuel false (by unfold State.tickFuel; omega)
  obtain ⟨k, rfl⟩ : ∃ k, fuel = k + 1 := ⟨fuel - 1, by omega⟩
  exact ⟨k, any, e⟩

end

/-- Settles O50: the loop reaches the write, and the step that issues it is stuck. -/
theorem unacceptedWriteHoldsTick : Obligations.UnacceptedWriteHoldsTick := by
  intro s u buf cursor reach hs inside hflood hreset never
  obtain ⟨k, any, run⟩ := runTick_of_reaches reach hflood
  have stuck : sessionStep Params.hw u.line.nextMoment u.beginStep = .stuck .writeNeverAccepted := by
    rw [sessionStep_of_sending (s := u.beginStep) hs, stepSending_never inside never]
  exact run.trans (tickLoop_of_stuck hflood hreset stuck)

/-- The reset block in the environment of a state that the host's accesses have not moved. -/
theorem platformReset_of_sameHost {s u : State} (h : s.SameHost u) :
    u.platformReset = { State.reset with line := u.line, now := u.now, inputs := s.inputs, reads := s.reads } := by
  obtain ⟨-, hinputs, hreads⟩ := h
  rw [State.platformReset, hinputs, hreads]

/-- Settles O52: the loop reaches the reset, which comes before a step or in a held write. -/
theorem resetAbandonsTick : Obligations.ResetAbandonsTick := by
  intro s u reach hflood
  obtain ⟨k, any, run⟩ := runTick_of_reaches reach hflood
  have same := reach.sameHost
  refine ⟨fun hreset => ?_, fun buf cursor inside hs hreset held => ?_⟩
  · have abandoned := run.trans (tickLoop_of_reset hflood hreset)
    rwa [platformReset_of_sameHost (u := u.beginStep) same] at abandoned
  · have step : sessionStep Params.hw u.line.nextMoment u.beginStep = .heldToReset (u.beginStep.handToLine buf[cursor]) := by
      rw [sessionStep_of_sending (s := u.beginStep) hs, stepSending_held inside held]
    have abandoned := run.trans (tickLoop_of_held hflood hreset step)
    rwa [platformReset_of_sameHost (u := u.beginStep.handToLine buf[cursor]) same] at abandoned

/-- A TICK at the defaults, by the state that its loop reaches and in which it is quiescent, where the first step made
progress and no reset is scheduled. -/
theorem exec_tick_of_reaches {s s' u : State} (hl : s.line.NoReset)
    (first : sessionStep Params.hw s.line.nextMoment s.beginStep = .progress s') (reach : TickReaches Params.hw s u)
    (hflood : u.line.flooding = false) (quiescent : sessionStep Params.hw u.line.nextMoment u.beginStep = .quiescent) :
    exec .tick s = .next { u.beginStep with result := 0x00010001 } := by
  obtain ⟨k, any, run⟩ := runTick_of_reaches reach hflood
  have completes := run.trans (tickLoop_of_end hflood (reach.noReset hl).nextMoment.1 quiescent (.inl rfl))
  have result : tickResultWord any = 0x00010001 := runTick_result_of_progress hl first completes
  rw [result] at completes
  exact completes

/-- Settles O56: the first step and the one after the wait are quiescent, and the loop ends at the second. -/
theorem repollWaitsAndStepsOnceMore : Obligations.RepollWaitsAndStepsOnceMore := by
  intro c s repoll hquiet hreset hreset' first second
  have again : (s.beginStep.wait c.pRepollDelayUs).line.ending = .quiet := hquiet
  rw [runTick, State.tickFuel, tickLoop_of_repoll (Line.not_flooding_of_quiet hquiet) hreset first repoll,
    tickLoop_of_end (Line.not_flooding_of_quiet again) hreset' second (.inr rfl), tickResultWord_eq]
  rfl

end Sys2Proof.Machine
end

section
/-! SUPPORT. Whole transfers on lines of one known behaviour: an entry sent on an echoing line, and bytes that wait on a
silent one (spec/42_session.md R176 to R183, spec/41_assembler.md R153). -/

namespace Sys2Proof.Machine

section
variable {c : Params} {s : State}

/-! ### The moment before a step -/

theorem nextMoment_of_script {m : Moment} {ms : List Moment} (h : s.line.script = m :: ms) : s.line.nextMoment = m := by
  rw [Line.nextMoment, h]
  rfl

theorem beginStep_of_script {m : Moment} {ms : List Moment} (h : s.line.script = m :: ms) :
    s.beginStep = { s with
      line := { s.line with rx := s.line.rx ++ m.arrive, script := ms }, now := s.now + m.elapse } := by
  rw [State.beginStep, nextMoment_of_script h, h]
  rfl

theorem nextMoment_of_script_end (h : s.line.script = []) : s.line.nextMoment = {} := by
  rw [Line.nextMoment, h]
  rfl

/-- After the script's end nothing arrives and no time passes (log entry 3). -/
theorem beginStep_of_script_end (h : s.line.script = []) : s.beginStep = s := by
  rw [State.beginStep, nextMoment_of_script_end h, h, List.append_nil, Nat.add_zero, List.tail_nil, ← h]

theorem noReset_of_script_end {l : Line} (h : l.script = []) : l.NoReset := by
  rw [Line.NoReset, h]
  nofun

/-! ### Steps that end or begin a transfer -/

/-- Idle with nothing to do (R176). -/
theorem sessionStep_idle_quiescent {m : Moment} (hs : s.session = .idle) (silent : s.line.rx = []) (empty : s.txq = []) :
    sessionStep c m s = .quiescent := by
  obtain ⟨-, -, waits⟩ := idleStepPrefersReceiving c m s hs
  exact waits silent (.inl empty)

/-- Idle with something readable (R176). -/
theorem sessionStep_idle_receives {m : Moment} (hs : s.session = .idle) (readable : s.line.rx ≠ []) :
    sessionStep c m s = .progress { s with session := .receiving [] } :=
  (StepProgress.idleReceives hs readable).step

/-- In the moment at which the wait for the reply began, it is not over (R175, R181). -/
theorem sessionStep_waitingReply_at_start {m : Moment} (hs : s.session = .waitingReply (s.readNow c)) (silent : s.line.rx = []) :
    sessionStep c m s = .quiescent := by
  have inTime : timedOut c (s.readNow c) (s.readNow c) c.pReplyTimeoutUs = false := by simp [timedOut, elapsed]
  rw [sessionStep_of_waitingReply hs, stepWaitingReply, if_neg (by simp [lineReadable_iff, silent]), inTime]
  rfl

/-! ### Sending on an echoing line -/

/-- A byte is written in a moment that accepts it (R177). -/
theorem reaches_written {buf : List Byte} {cursor : Nat} {ms : List Moment} (inside : cursor < buf.length)
    (hs : s.session = .sending buf cursor) (hscript : s.line.script = {} :: ms) :
    TickReaches c s { s with
      session := .waitingEcho buf cursor (s.readNow c)
      line := { s.line with script := ms, handed := s.line.handed ++ [buf[cursor]] } } := by
  refine .one (by rw [nextMoment_of_script hscript]) ?_
  rw [nextMoment_of_script hscript, beginStep_of_script hscript, sessionStep_of_sending (by exact hs), stepSending_ok inside rfl]
  simp [State.handToLine, State.readNow]

/-- The echo of a byte is accepted in the moment that makes it readable (R179). -/
theorem reaches_echo {buf : List Byte} {cursor : Nat} {t0 : Time} {ms : List Moment} (inside : cursor < buf.length)
    (hs : s.session = .waitingEcho buf cursor t0) (silent : s.line.rx = [])
    (hscript : s.line.script = { arrive := [.byte buf[cursor]] } :: ms) :
    TickReaches c s (echoMatched c buf cursor { s with line := { s.line with script := ms } }) := by
  refine .one (by rw [nextMoment_of_script hscript]) ?_
  rw [beginStep_of_script hscript, sessionStep_of_waitingEcho (by exact hs),
    stepWaitingEcho_echo inside (rest := []) (by simp [silent])]
  simp [State.takeRx, ← silent]

/-- The session before it does not matter to what an accepted echo leads to. -/
theorem echoMatched_withSession (buf : List Byte) (cursor : Nat) (S : Session) :
    echoMatched c buf cursor { s with session := S } = echoMatched c buf cursor s := by
  unfold echoMatched
  split <;> rfl

/-- One byte is written and its echo accepted, in the two moments that the echoing line gives it. -/
theorem reaches_echoed_byte {buf : List Byte} {cursor : Nat} {ms : List Moment} (inside : cursor < buf.length)
    (hs : s.session = .sending buf cursor) (silent : s.line.rx = [])
    (hscript : s.line.script = {} :: { arrive := [.byte buf[cursor]] } :: ms) :
    TickReaches c s (echoMatched c buf cursor
      { s with line := { s.line with script := ms, handed := s.line.handed ++ [buf[cursor]] } }) := by
  rw [← echoMatched_withSession buf cursor (.waitingEcho buf cursor (s.readNow c))]
  exact (reaches_written inside hs hscript).trans (reaches_echo inside rfl silent rfl)

/-- The rest of an entry is sent byte by byte, and the session waits for the reply from the moment of the last echo. -/
theorem reaches_sent {buf : List Byte} {cursor n : Nat} (hn : cursor + n + 1 = buf.length)
    (hs : s.session = .sending buf cursor) (silent : s.line.rx = [])
    (hscript : s.line.script = (echoScript (buf.drop cursor)).tail) :
    TickReaches c s { s with
      session := .waitingReply (s.readNow c)
      line := { s.line with script := [], handed := s.line.handed ++ buf.drop cursor } } := by
  induction n generalizing cursor s with
  | zero =>
    have inside : cursor < buf.length := by omega
    have last : buf.drop cursor = [buf[cursor]] := by
      rw [List.drop_eq_getElem_cons inside, List.drop_of_length_le (by omega)]
    rw [last] at hscript ⊢
    have reach := reaches_echoed_byte (c := c) inside hs silent hscript
    rwa [echoMatched, if_pos (by omega)] at reach
  | succ n ih =>
    have inside : cursor < buf.length := by omega
    have split : buf.drop cursor = buf[cursor] :: buf.drop (cursor + 1) := List.drop_eq_getElem_cons inside
    rw [split] at hscript ⊢
    have reach := reaches_echoed_byte (c := c) inside hs silent hscript
    rw [echoMatched, if_neg (by omega)] at reach
    refine reach.trans ?_
    have others := ih (cursor := cursor + 1) (s := { s with
      session := .sending buf (cursor + 1)
      line := { s.line with
        script := (echoScript (buf.drop (cursor + 1))).tail, handed := s.line.handed ++ [buf[cursor]] } })
      (by omega) rfl silent rfl
    rwa [List.append_assoc, List.singleton_append] at others

/-- The script of an echoing line resets nothing. -/
theorem echoScript_noReset {l : Line} {buf : List Byte} (h : l.script = echoScript buf) : l.NoReset := by
  intro m hm
  simp only [h, echoScript, List.mem_cons, List.mem_flatMap, List.not_mem_nil, or_false] at hm
  rcases hm with rfl | ⟨b, -, rfl | rfl⟩ <;> exact ⟨rfl, nofun⟩

/-- In a moment that brings nothing, Idle takes the oldest entry to send it (R176). -/
theorem sessionStep_idle_sends {buf : List Byte} {rest : List (List Byte)} {ms : List Moment} (hs : s.session = .idle)
    (hq : s.txq = buf :: rest) (silent : s.line.rx = []) (hscript : s.line.script = {} :: ms) :
    sessionStep c s.line.nextMoment s.beginStep = .progress { s with
      txq := rest, session := .sending buf 0, line := { s.line with script := ms } } := by
  obtain ⟨-, sends, -⟩ := idleStepPrefersReceiving c s.line.nextMoment s.beginStep hs
  rw [sends buf rest (by simp [silent, nextMoment_of_script hscript]) hq (by rw [nextMoment_of_script hscript]),
    beginStep_of_script hscript]
  simp

end

/-- Settles O53: the first step takes the entry from the queue, the next ones send it, and in the moment of the last echo the
wait for the reply is not over. -/
theorem echoedEntryIsSentWhole : Obligations.EchoedEntryIsSentWhole := by
  intro s buf rest hs hq nonempty silent hscript hquiet
  have length : 0 + (buf.length - 1) + 1 = buf.length := by have := List.length_pos_of_ne_nil nonempty; omega
  have first := sessionStep_idle_sends (c := Params.hw) hs hq silent hscript
  have reach := TickReaches.later s _ _ (by rw [nextMoment_of_script hscript]) first (reaches_sent length rfl silent rfl)
  have done := exec_tick_of_reaches (echoScript_noReset hscript) first reach (Line.not_flooding_of_quiet hquiet)
    (by rw [beginStep_of_script_end rfl]; exact sessionStep_waitingReply_at_start rfl silent)
  rw [beginStep_of_script_end rfl] at done
  exact ⟨_, done, rfl, rfl, rfl, rfl, silent, ⟨rfl, rfl⟩, ⟨rfl, rfl⟩, rfl⟩

section
variable {c : Params} {s : State}

/-! ### A frame that waits on a silent line -/

theorem deliver_of_room {f : List Byte} (room : s.rxq.length < c.pRxqCap) : deliver c f s = { s with rxq := s.rxq ++ [f] } := by
  simp [deliver, pushBounded_of_room f room]

theorem deliver_of_full {f : List Byte} (full : c.pRxqCap ≤ s.rxq.length) : deliver c f s = raiseErr .rxQueueFull s := by
  simp [deliver, pushBounded_of_full f full]

/-- A delivery touches RXQ or the error registers alone. -/
theorem deliver_keeps (c : Params) (f : List Byte) (s : State) :
    (deliver c f s).session = s.session ∧ (deliver c f s).txq = s.txq ∧ (deliver c f s).line = s.line := by
  unfold deliver
  split <;> exact ⟨rfl, rfl, rfl⟩

theorem received_complete {acc f : List Byte} {v : Byte} (h : update c acc v c.pRxLen = .complete f) :
    received c acc v s = deliver c f { s with session := .idle } := by
  rcases Nat.lt_or_ge s.rxq.length c.pRxqCap with room | full
  · rw [received_complete_of_room h room, deliver_of_room (by exact room)]
  · rw [received_complete_of_full h full, deliver_of_full (by exact full)]
    rfl

/-- One byte is received on a line whose script has ended (R182). -/
theorem reaches_received {acc : List Byte} {v : Byte} {rest : List RxItem} (hs : s.session = .receiving acc)
    (hr : s.line.rx = .byte v :: rest) (hscript : s.line.script = []) :
    TickReaches c s (received c acc v (s.takeRx rest)) := by
  refine .one (by rw [nextMoment_of_script_end hscript]) ?_
  rw [beginStep_of_script_end hscript]
  exact (StepProgress.receives acc v rest hs hr).step

/-- The next byte of a frame is received on such a line: the accumulator grows, and with the last byte the frame is
delivered (R154, R183). -/
theorem reaches_frame_byte {f : List Byte} {k : Nat} (frame : IsFrame c f) (hlen : f.length = c.pRxLen) (inside : k < f.length)
    (hs : s.session = .receiving (f.take k)) (hr : s.line.rx = (f.drop k).map .byte) (hscript : s.line.script = []) :
    TickReaches c s (if k + 1 < f.length then
        { s with session := .receiving (f.take (k + 1)), line := { s.line with rx := (f.drop (k + 1)).map .byte } }
      else deliver c f { s with session := .idle, line := { s.line with rx := [] } }) := by
  have verdict := frameRoundTripsThroughAssembler c f frame k inside
  rw [hlen] at verdict
  rw [List.drop_eq_getElem_cons inside, List.map_cons] at hr
  have reach := reaches_received (c := c) hs hr hscript
  split_ifs with more
  · rw [if_pos (hlen ▸ more)] at verdict
    rwa [received_incomplete verdict] at reach
  · rw [if_neg (hlen ▸ more)] at verdict
    rwa [received_complete verdict, List.drop_of_length_le (by omega)] at reach

/-- The rest of a frame is received byte by byte, and then the frame is delivered (R154, R183). -/
theorem reaches_delivered {f : List Byte} {k n : Nat} (frame : IsFrame c f) (hlen : f.length = c.pRxLen)
    (hn : k + n + 1 = f.length) (hs : s.session = .receiving (f.take k)) (hr : s.line.rx = (f.drop k).map .byte)
    (hscript : s.line.script = []) :
    TickReaches c s (deliver c f { s with session := .idle, line := { s.line with rx := [] } }) := by
  have reach := reaches_frame_byte frame hlen (by omega) hs hr hscript
  induction n generalizing k s with
  | zero => rwa [if_neg (by omega)] at reach
  | succ n ih =>
    rw [if_pos (by omega)] at reach
    exact reach.trans (ih (k := k + 1) (by omega) rfl rfl hscript
      (reaches_frame_byte frame hlen (by omega) rfl rfl hscript))

/-- A frame that waits on a silent line, from Idle: it is received and delivered. -/
theorem reaches_delivered_of_idle {f : List Byte} (frame : IsFrame c f) (hlen : f.length = c.pRxLen) (hs : s.session = .idle)
    (hr : s.line.rx = f.map .byte) (hscript : s.line.script = []) :
    TickReaches c s (deliver c f { s with line := { s.line with rx := [] } }) := by
  have nonempty : 0 < f.length := Nat.lt_of_lt_of_le (by decide) frame.length_ge
  have readable : s.line.rx ≠ [] := by
    rw [hr, ne_eq, List.map_eq_nil_iff]
    exact List.ne_nil_of_length_pos nonempty
  have first : sessionStep c s.line.nextMoment s.beginStep = .progress { s with session := .receiving [] } := by
    rw [beginStep_of_script_end hscript]
    exact sessionStep_idle_receives hs readable
  have received := reaches_delivered (c := c) (s := { s with session := .receiving [] }) (f := f) (k := 0) (n := f.length - 1)
    frame hlen (by omega) rfl hr hscript
  rw [← hs] at received
  exact .later s _ _ (by rw [nextMoment_of_script_end hscript]) first received

end

/-- A TICK from Idle on a silent line with items waiting and nothing to send, by the Idle state that its loop reaches with the
line empty. -/
theorem exec_tick_of_reaches_idle {s u : State} (hs : s.session = .idle) (readable : s.line.rx ≠ [])
    (hscript : s.line.script = []) (reach : TickReaches Params.hw s u) (hidle : u.session = .idle) (empty : u.txq = [])
    (silent : u.line.rx = []) (ended : u.line.script = []) (quiet : u.line.ending = .quiet) :
    exec .tick s = .next { u with result := 0x00010001 } := by
  have first : sessionStep Params.hw s.line.nextMoment s.beginStep = .progress { s with session := .receiving [] } := by
    rw [beginStep_of_script_end hscript]
    exact sessionStep_idle_receives hs readable
  have done := exec_tick_of_reaches (noReset_of_script_end hscript) first reach (Line.not_flooding_of_quiet quiet)
    (by rw [beginStep_of_script_end ended]; exact sessionStep_idle_quiescent hidle silent empty)
  rwa [beginStep_of_script_end ended] at done

/-- Settles O54: the frame is delivered, where there is room for it in RXQ or not. -/
theorem waitingFrameIsReceived : Obligations.WaitingFrameIsReceived := by
  intro s f hs empty hline six frame
  have hr : s.line.rx = f.map .byte := by rw [hline]
  have hscript : s.line.script = [] := by rw [hline]
  have hquiet : s.line.ending = .quiet := by rw [hline]
  have readable : s.line.rx ≠ [] := by
    rw [hr, ne_eq, List.map_eq_nil_iff]
    exact List.ne_nil_of_length_pos (by omega)
  have reach := reaches_delivered_of_idle (c := Params.hw) frame six hs hr hscript
  obtain ⟨session, txq, line⟩ := deliver_keeps Params.hw f { s with line := { s.line with rx := [] } }
  have done := exec_tick_of_reaches_idle hs readable hscript reach (session.trans hs) (txq.trans empty) (by rw [line])
    (by rw [line]; exact hscript) (by rw [line]; exact hquiet)
  refine ⟨_, done, session.trans hs, congrArg Line.rx line, rfl, fun room => ?_, fun full => ?_⟩
  · rw [deliver_of_room (by exact room)]
    exact ⟨rfl, rfl, rfl⟩
  · rw [deliver_of_full (by exact full)]
    exact ⟨rfl, by simp, rfl⟩

/-! ### Stray bytes -/

/-- A byte other than START on a fresh accumulator is an InvalidStart (R153). -/
theorem update_fresh_of_ne {c : Params} {b : Byte} {T : Nat} (h : b ≠ c.pStart) :
    update c [] b T = .invalid .invalidStart := by
  simp [update, h]

/-- One stray byte is discarded from Idle by two progress steps, whatever arrives meanwhile (R153, R176, R182). -/
theorem reaches_stray_discarded {c : Params} {s : State} {b : Byte} {rest : List RxItem} (hs : s.session = .idle)
    (hr : s.line.rx = .byte b :: rest) (stray : b ≠ c.pStart) (hreset : s.line.nextMoment.reset = false)
    (hreset' : s.beginStep.line.nextMoment.reset = false) :
    TickReaches c s { s.beginStep.beginStep with
      line := { s.beginStep.beginStep.line with rx := rest ++ s.line.nextMoment.arrive ++ s.beginStep.line.nextMoment.arrive },
      err := s.err ||| 0x00000002, lastErr := 1 } := by
  have first : sessionStep c s.line.nextMoment s.beginStep = .progress { s.beginStep with session := .receiving [] } :=
    sessionStep_idle_receives hs (by simp [hr])
  refine .later s _ _ hreset first (.one hreset' ?_)
  have waits : s.beginStep.beginStep.line.rx =
      .byte b :: (rest ++ s.line.nextMoment.arrive ++ s.beginStep.line.nextMoment.arrive) := by
    simp [hr]
  have second := (StepProgress.receives (c := c) (m := s.beginStep.line.nextMoment)
    (s := { s.beginStep.beginStep with session := .receiving [] }) [] b _ rfl waits).step
  rw [received_invalid (update_fresh_of_ne stray), sessionError_takeRx, ← hs] at second
  exact second

/-- A run of stray bytes on a line whose script has ended is discarded whole, and the one error is raised again and again. -/
theorem reaches_strays_discarded {c : Params} {s : State} {bs : List Byte} {rest : List RxItem} (hs : s.session = .idle)
    (hr : s.line.rx = bs.map .byte ++ rest) (hscript : s.line.script = []) (nonempty : bs ≠ []) (stray : ∀ b ∈ bs, b ≠ c.pStart) :
    TickReaches c s { s with line := { s.line with rx := rest }, err := s.err ||| 0x00000002, lastErr := 1 } := by
  induction bs generalizing s with
  | nil => exact absurd rfl nonempty
  | cons b bs ih =>
    have reset : s.line.nextMoment.reset = false := by rw [nextMoment_of_script_end hscript]
    have one := reaches_stray_discarded (c := c) hs hr (stray b (by simp)) reset
      (by rw [beginStep_of_script_end hscript]; exact reset)
    simp only [beginStep_of_script_end hscript, nextMoment_of_script_end hscript, List.append_nil] at one
    cases bs with
    | nil => exact one
    | cons b' bs =>
      have others := ih (s := { s with
        line := { s.line with rx := (b' :: bs).map .byte ++ rest }, err := s.err ||| 0x00000002, lastErr := 1 })
        hs rfl hscript (by simp) (fun x hx => stray x (by simp [hx]))
      rw [BitVec.or_assoc, BitVec.or_self] at others
      exact one.trans others

/-- Settles O55: the run is discarded, and then the line is empty or its frame is delivered. -/
theorem strayBytesAreDiscarded : Obligations.StrayBytesAreDiscarded := by
  refine ⟨fun c s b rest => reaches_stray_discarded, fun s bs nonempty stray hs empty => ⟨fun hline => ?_, ?_⟩⟩
  · have hr : s.line.rx = bs.map .byte ++ [] := by rw [hline, List.append_nil]
    have hscript : s.line.script = [] := by rw [hline]
    have hquiet : s.line.ending = .quiet := by rw [hline]
    have reach := reaches_strays_discarded (c := Params.hw) hs hr hscript nonempty stray
    have done := exec_tick_of_reaches_idle hs (by simp [hr, nonempty]) hscript reach hs empty rfl hscript hquiet
    exact ⟨_, done, hs, rfl, rfl, rfl, rfl, rfl⟩
  · intro f six frame room hline
    have hr : s.line.rx = bs.map .byte ++ f.map .byte := by rw [hline, List.map_append]
    have hscript : s.line.script = [] := by rw [hline]
    have hquiet : s.line.ending = .quiet := by rw [hline]
    have strays := reaches_strays_discarded (c := Params.hw) hs hr hscript nonempty stray
    have delivered := reaches_delivered_of_idle (c := Params.hw) (s := { s with
      line := { s.line with rx := f.map .byte }, err := s.err ||| 0x00000002, lastErr := 1 }) frame six hs rfl hscript
    rw [deliver_of_room (by exact room)] at delivered
    have done := exec_tick_of_reaches_idle hs (by simp [hr, nonempty]) hscript (strays.trans delivered) hs empty rfl hscript
      hquiet
    exact ⟨_, done, hs, rfl, rfl, rfl, rfl, rfl⟩

end Sys2Proof.Machine
end
